-- ==== Sys2Proof/Word.lean ====
section
/-! DEFINITION. The words of the block: a byte, the 32-bit value of one bus access, a register number. -/

namespace Sys2Proof

/-- A byte of a frame or of a buffer register. -/
abbrev Byte := BitVec 8

/-- The 32-bit value a bus access moves (R76), and a command word (R90). -/
abbrev Word := BitVec 32

/-- A register number, 0x000 to 0xFFF (R70). -/
abbrev RegNum := BitVec 12

end Sys2Proof
end

