-- ==== Sys2Proof/Syntax.lean ====
section
/-! DEFINITION. The seventeen commands of R92, one constructor per row of the command table.
`a` and `b` are the operand fields `A` and `B` of the command word (R90, R91). -/

namespace Sys2Proof

/-- A command of the block (R92, R200). -/
inductive Instr where
  /-- NOP, R201. -/
  | nop
  /-- SRESET, R202. -/
  | sreset
  /-- C16CLR, R126. -/
  | c16clr
  /-- C16UPD, R127: `a` is the data byte. -/
  | c16upd (a : Byte)
  /-- C8CLR, R128. -/
  | c8clr
  /-- C8UPD, R129: `a` is the data byte. -/
  | c8upd (a : Byte)
  /-- PACK, R144. -/
  | pack
  /-- BLDINFO, R146. -/
  | bldinfo
  /-- BLDCMD, R148: `a` is the command code, bit 0 of `b` is `hasValue`. -/
  | bldcmd (a b : Byte)
  /-- BLDLIM, R150: bit 0 of `b` is `relative`, bit 1 is `persist`. -/
  | bldlim (b : Byte)
  /-- IDENT, R162. -/
  | ident
  /-- FIELD, R166: `a` is the byte offset into ASM, `b` the width in bytes. -/
  | field (a b : Byte)
  /-- RSTASM, R182. -/
  | rstasm
  /-- ABSORB, R184. -/
  | absorb
  /-- ASSEMBLE, R188. -/
  | assemble
  /-- VERIFY, R190. -/
  | verify
  /-- ASMZERO, R192. -/
  | asmzero
  deriving DecidableEq, Repr

end Sys2Proof
end

