-- ==== Sys2Proof/WellFormed.lean ====
section
/-! DEFINITION. When a command is one that a command word can spell (R91): every bit of `B` that a
command does not name must be 0. -/

namespace Sys2Proof

/-- R91, R93: bits 7 to 1 of BLDCMD's `B` and bits 7 to 2 of BLDLIM's `B` are 0. Every other operand takes
every value of its field. -/
def Instr.wellFormed : Instr → Bool
  | .nop => true
  | .sreset => true
  | .c16clr => true
  | .c16upd _ => true
  | .c8clr => true
  | .c8upd _ => true
  | .pack => true
  | .bldinfo => true
  | .bldcmd _ b => b &&& 0xFE#8 == 0#8
  | .bldlim b => b &&& 0xFC#8 == 0#8
  | .ident => true
  | .field _ _ => true
  | .rstasm => true
  | .absorb => true
  | .assemble => true
  | .verify => true
  | .asmzero => true

end Sys2Proof
end

