-- ==== Sys2Proof/Decode.lean ====
section
/-! DEFINITION. The command word (R90 to R93): its fields, the command table, the decoder, which rejects
every illegal word by name, and the encoder. -/

namespace Sys2Proof

/-- Why a word is illegal (R93). The order in which the checks are made is the model's (log 11); the
block does the same for every reason. -/
inductive Illegal where
  /-- `OP` is in no row of the command table. -/
  | unassignedOpcode (op : Byte)
  /-- `Z`, bits 31 to 24, is not 0. -/
  | nonzeroZ
  /-- `A` is not 0 and the command does not use it. -/
  | nonzeroA
  /-- `B` has a bit set that the command does not name. -/
  | nonzeroB
  deriving DecidableEq, Repr

/-- The field `OP`, bits 7 to 0 (R90). -/
def opField (w : Word) : Byte := w.extractLsb' 0 8

/-- The field `A`, bits 15 to 8 (R90). -/
def aField (w : Word) : Byte := w.extractLsb' 8 8

/-- The field `B`, bits 23 to 16 (R90). -/
def bField (w : Word) : Byte := w.extractLsb' 16 8

/-- The field `Z`, bits 31 to 24 (R90). -/
def zField (w : Word) : Byte := w.extractLsb' 24 8

/-- The checks of R91 after the opcode is known: `Z` is 0, and `A` and `B` have no bit outside the bits
`aMask` and `bMask` that the command uses. -/
def checkFields (w : Word) (aMask bMask : Byte) (i : Instr) : Except Illegal Instr :=
  if zField w ≠ 0#8 then .error .nonzeroZ
  else if aField w &&& ~~~aMask ≠ 0#8 then .error .nonzeroA
  else if bField w &&& ~~~bMask ≠ 0#8 then .error .nonzeroB
  else .ok i

/-- The decoder (R92, R93): total on every 32-bit value. -/
def decode (w : Word) : Except Illegal Instr :=
  match (opField w).toNat with
  | 0x00 => checkFields w 0x00#8 0x00#8 .nop
  | 0x01 => checkFields w 0x00#8 0x00#8 .sreset
  | 0x10 => checkFields w 0x00#8 0x00#8 .c16clr
  | 0x11 => checkFields w 0xFF#8 0x00#8 (.c16upd (aField w))
  | 0x12 => checkFields w 0x00#8 0x00#8 .c8clr
  | 0x13 => checkFields w 0xFF#8 0x00#8 (.c8upd (aField w))
  | 0x20 => checkFields w 0x00#8 0x00#8 .pack
  | 0x21 => checkFields w 0x00#8 0x00#8 .bldinfo
  | 0x22 => checkFields w 0xFF#8 0x01#8 (.bldcmd (aField w) (bField w))
  | 0x23 => checkFields w 0x00#8 0x03#8 (.bldlim (bField w))
  | 0x30 => checkFields w 0x00#8 0x00#8 .ident
  | 0x31 => checkFields w 0xFF#8 0xFF#8 (.field (aField w) (bField w))
  | 0x40 => checkFields w 0x00#8 0x00#8 .rstasm
  | 0x41 => checkFields w 0x00#8 0x00#8 .absorb
  | 0x42 => checkFields w 0x00#8 0x00#8 .assemble
  | 0x43 => checkFields w 0x00#8 0x00#8 .verify
  | 0x44 => checkFields w 0x00#8 0x00#8 .asmzero
  | _ => .error (.unassignedOpcode (opField w))

/-- The word with the given fields and `Z` = 0 (R90). -/
def commandWord (op a b : Byte) : Word := 0#8 ++ b ++ a ++ op

/-- The encoder: the word of R104 for a command, its operands placed as R90 says. -/
def encode : Instr → Word
  | .nop => commandWord 0x00#8 0#8 0#8
  | .sreset => commandWord 0x01#8 0#8 0#8
  | .c16clr => commandWord 0x10#8 0#8 0#8
  | .c16upd a => commandWord 0x11#8 a 0#8
  | .c8clr => commandWord 0x12#8 0#8 0#8
  | .c8upd a => commandWord 0x13#8 a 0#8
  | .pack => commandWord 0x20#8 0#8 0#8
  | .bldinfo => commandWord 0x21#8 0#8 0#8
  | .bldcmd a b => commandWord 0x22#8 a b
  | .bldlim b => commandWord 0x23#8 0#8 b
  | .ident => commandWord 0x30#8 0#8 0#8
  | .field a b => commandWord 0x31#8 a b
  | .rstasm => commandWord 0x40#8 0#8 0#8
  | .absorb => commandWord 0x41#8 0#8 0#8
  | .assemble => commandWord 0x42#8 0#8 0#8
  | .verify => commandWord 0x43#8 0#8 0#8
  | .asmzero => commandWord 0x44#8 0#8 0#8

/-- A row of the command table of R92: a word `w` selects it when `w AND mask = pattern`. -/
structure CommandRow where
  mnemonic : String
  pattern : Word
  mask : Word
  deriving DecidableEq, Repr

/-- The command table of R92, row by row, as the spec writes it. The decoder above does not read it: that the two
agree is a statement. -/
def commandTable : List CommandRow :=
  [ ⟨"NOP", 0x00000000#32, 0xFFFFFFFF#32⟩,
    ⟨"SRESET", 0x00000001#32, 0xFFFFFFFF#32⟩,
    ⟨"C16CLR", 0x00000010#32, 0xFFFFFFFF#32⟩,
    ⟨"C16UPD", 0x00000011#32, 0xFFFF00FF#32⟩,
    ⟨"C8CLR", 0x00000012#32, 0xFFFFFFFF#32⟩,
    ⟨"C8UPD", 0x00000013#32, 0xFFFF00FF#32⟩,
    ⟨"PACK", 0x00000020#32, 0xFFFFFFFF#32⟩,
    ⟨"BLDINFO", 0x00000021#32, 0xFFFFFFFF#32⟩,
    ⟨"BLDCMD", 0x00000022#32, 0xFFFE00FF#32⟩,
    ⟨"BLDLIM", 0x00000023#32, 0xFFFCFFFF#32⟩,
    ⟨"IDENT", 0x00000030#32, 0xFFFFFFFF#32⟩,
    ⟨"FIELD", 0x00000031#32, 0xFF0000FF#32⟩,
    ⟨"RSTASM", 0x00000040#32, 0xFFFFFFFF#32⟩,
    ⟨"ABSORB", 0x00000041#32, 0xFFFFFFFF#32⟩,
    ⟨"ASSEMBLE", 0x00000042#32, 0xFFFFFFFF#32⟩,
    ⟨"VERIFY", 0x00000043#32, 0xFFFFFFFF#32⟩,
    ⟨"ASMZERO", 0x00000044#32, 0xFFFFFFFF#32⟩ ]

/-- The mnemonic of a command's row of R92. -/
def Instr.mnemonic : Instr → String
  | .nop => "NOP"
  | .sreset => "SRESET"
  | .c16clr => "C16CLR"
  | .c16upd _ => "C16UPD"
  | .c8clr => "C8CLR"
  | .c8upd _ => "C8UPD"
  | .pack => "PACK"
  | .bldinfo => "BLDINFO"
  | .bldcmd _ _ => "BLDCMD"
  | .bldlim _ => "BLDLIM"
  | .ident => "IDENT"
  | .field _ _ => "FIELD"
  | .rstasm => "RSTASM"
  | .absorb => "ABSORB"
  | .assemble => "ASSEMBLE"
  | .verify => "VERIFY"
  | .asmzero => "ASMZERO"

/-- The command word whose low `nbits` bits are those of `w` and whose other bits are 0. The word is a
value on the bus and has no byte order (R90), so there is nothing to lay out. -/
def tableWord (nbits w : Nat) : Word := BitVec.ofNat 32 (w % 2 ^ nbits)

/-- The command the decoder reads from a word of the command table, if any. -/
def decodeTableWord (nbits w : Nat) : Option Instr :=
  match decode (tableWord nbits w) with
  | .ok i => some i
  | .error _ => none

end Sys2Proof
end

