-- ==== Sys2Proof/Config.lean ====
section
/-! DEFINITION. What one block has fixed: the constants of R6, the places of the byte buffers in the
register space (R71), the OPEN parameters of R6 that the block reads, and the unspecified bytes of R12.
An `opaque` here has no body, so no proof can learn its value. -/

namespace Sys2Proof

/-- The inverter product classes (R15, R161). -/
inductive Family where
  | family1
  | family2
  | family3
  deriving DecidableEq, Repr

namespace Config

/-- `FRAG_PAYLOAD` (R6): payload bytes per fragment. -/
def fragPayload : Nat := 16

/-- `RAW_LEN` (R6): bytes of one raw receive frame. -/
def rawLen : Nat := 32

/-- `TX_MAX` (R6): the largest outbound frame. -/
def txMax : Nat := 32

/-- `TXP_MAX` (R6): the size of the payload buffer. -/
def txpMax : Nat := 21

/-- `ASM_MAX` (R6): the size of the assembled buffer. -/
def asmMax : Nat := 64

/-- `NSLOT` (R6): the number of fragment slots. -/
def nslot : Nat := 4

/-- `FRAG_ID_OFF` (R6, R101): offset of the leading id in the raw frame. -/
def fragIdOff : Nat := 9

/-- `FRAG_PAY_OFF` (R6, R101): offset of the fragment payload in the raw frame. -/
def fragPayOff : Nat := 10

/-- `FRAG_CRC_OFF` (R6, R101): offset of the fragment's CRC-8 in the raw frame. -/
def fragCrcOff : Nat := 26

/-- `INFO_LEN` (R6): length of the info-request payload. -/
def infoLen : Nat := 13

/-- `TYPE_INFO` (R6, R103). -/
def typeInfo : Byte := 0x15#8

/-- `TYPE_CTRL` (R6, R103). -/
def typeCtrl : Byte := 0x51#8

/-- `CMD_ON` (R6, R103). -/
def cmdOn : Byte := 0#8

/-- `CMD_OFF` (R6, R103). -/
def cmdOff : Byte := 1#8

/-- `CMD_SET_POWER_LIMIT` (R6, R103). -/
def cmdSetPowerLimit : Byte := 11#8

/-- Register number of TXP[0] (R46, R71). -/
def txpBase : Nat := 0x040

/-- Register number of TXF[0] (R47, R71). -/
def txfBase : Nat := 0x060

/-- Register number of RXF[0] (R48, R71). -/
def rxfBase : Nat := 0x080

/-- Register number of ASM[0] (R49, R71). -/
def asmBase : Nat := 0x0C0

/-- Register number of SLOT[0][0] (R50, R71). -/
def slotBase : Nat := 0x100

/-- `P_INFO_TEMPLATE` (R6, R145): 13 bytes that no source gives. OPEN, log 5. -/
opaque infoTemplate : Fin 13 → Byte

/-- `P_INFO_TIME_OFF` (R6, R145): 0 to 9, a value no source gives. OPEN, log 5. -/
opaque infoTimeOff : Fin 10

/-- `P_FRAG_IDS` (R6, R162): the leading ids of a family by schema position. OPEN, log 5. IDENT reads only
the positions below the family's NFRAG. -/
opaque fragIds : Family → Fin 4 → Byte

/-- `UNSPEC_8` (R12): the byte of the n-th draw. A FREE VALUE (log 4): no rule fixes it. -/
opaque unspecByte : Nat → Byte

end Config

end Sys2Proof
end

