-- ==== Sys2Proof/Machine/State.lean ====
section
/-! DEFINITION. The state of the block, plain data: every register of R24 to R45 under its own field, the five
byte buffers of R46 to R50 as one memory keyed by register number, and the model's own three fields (the
host's accesses still to come, the value last read, the count of unspecified bytes drawn). -/

namespace Sys2Proof.Machine

/-- The byte buffers: (register number, byte) pairs, numbers strictly rising, no byte equal to what an
unlisted number reads as (log 6). -/
abbrev Memory := List Host.Cell

/-- What an unlisted buffer register reads as: its reset value, 0 (R54). -/
def Memory.unlisted : Byte := 0#8

/-- The canonical form of a memory: register numbers strictly rising, no byte that an unlisted number
would read as. -/
def Memory.wf : Memory → Bool
  | [] => true
  | (a, v) :: rest => v != Memory.unlisted && rest.all (fun c => a < c.1) && Memory.wf rest

/-- What the host does to the block from outside (R5, R72, R73, R240). -/
inductive HostEvent where
  /-- `RegRead(n)`, R72. -/
  | read (n : RegNum)
  /-- `RegWrite(n, v)`, R73. -/
  | write (n : RegNum) (v : Word)
  /-- Hardware reset, R240 (log 10). -/
  | hardReset
  deriving DecidableEq, Repr

/-- The state of the block, R20, and the model's own fields. -/
structure State where
  /-- STATUS, R24. -/
  status : BitVec 5
  /-- ERR, R25. -/
  err : BitVec 6
  /-- RESULT, R26. -/
  result : BitVec 32
  /-- CTRL, R27: bit 0 is C16EN. -/
  ctrl : BitVec 1
  /-- C16, R29. -/
  c16 : BitVec 16
  /-- C8, R30. -/
  c8 : BitVec 8
  /-- SERIAL_LO, R31. -/
  serialLo : BitVec 32
  /-- SERIAL_HI, R31. -/
  serialHi : BitVec 32
  /-- FAMILY, R32. -/
  family : BitVec 2
  /-- INV_ADDR, R33. -/
  invAddr : BitVec 32
  /-- DTU_ADDR, R33. -/
  dtuAddr : BitVec 32
  /-- TYPE, R34. -/
  typeByte : BitVec 8
  /-- FRAME_ID, R35. -/
  frameId : BitVec 8
  /-- EPOCH, R36. -/
  epoch : BitVec 32
  /-- VALUE, R37. -/
  value : BitVec 16
  /-- MODIFIER, R37. -/
  modifier : BitVec 16
  /-- TXPLEN, R38. -/
  txpLen : BitVec 5
  /-- TXFLEN, R39. -/
  txfLen : BitVec 6
  /-- NFRAG, R40. -/
  nfrag : BitVec 3
  /-- TOTLEN, R41. -/
  totLen : BitVec 7
  /-- FRAGID0, R42. -/
  fragId0 : BitVec 8
  /-- FRAGID1, R42. -/
  fragId1 : BitVec 8
  /-- FRAGID2, R42. -/
  fragId2 : BitVec 8
  /-- FRAGID3, R42. -/
  fragId3 : BitVec 8
  /-- OUTST, R43. -/
  outst : BitVec 4
  /-- COLL, R44. -/
  coll : BitVec 4
  /-- ASMLEN, R45. -/
  asmLen : BitVec 7
  /-- TXP, TXF, RXF, ASM and SLOT, R46 to R50, each byte at its register number. -/
  buf : Memory
  /-- The MODEL's own: how many unspecified bytes have been drawn (R12, log 4). -/
  draws : Nat
  /-- The MODEL's own: the value the last RegRead returned to the host (R72, log 3). -/
  readData : Word
  /-- The MODEL's own: the host's events not yet performed, the next one first (R78, log 1). -/
  pending : List HostEvent
  deriving DecidableEq, Repr

/-- Why the block could stop with a fault: never. R214 (no traps), R250 (it cannot hang) and
93_implementation_defined.md ("Nothing in the spec is `fault` or `stuck`") leave this type without a
constructor; that is safe, since nothing of the spec is left out by it (log 7). -/
inductive Fault where
  deriving DecidableEq, Repr

/-- Why the model could refuse to go on. -/
inductive Refusal where
  /-- An instruction without a meaning yet. Raised only by a refused arm of `exec`, and there is none:
  every command has its meaning. It would be safe: the model would stop where the block goes on. -/
  | notModelled (mnemonic : String)
  deriving DecidableEq, Repr

/-- The block right after reset, R54 and R240: everything 0 but C16 and CTRL. No byte is listed, nothing is
pending, nothing has been drawn or read (log 1, log 3, log 4). -/
def State.reset : State where
  status := 0#5
  err := 0#6
  result := 0#32
  ctrl := 1#1
  c16 := 0xFFFF#16
  c8 := 0x00#8
  serialLo := 0#32
  serialHi := 0#32
  family := 0#2
  invAddr := 0#32
  dtuAddr := 0#32
  typeByte := 0#8
  frameId := 0#8
  epoch := 0#32
  value := 0#16
  modifier := 0#16
  txpLen := 0#5
  txfLen := 0#6
  nfrag := 0#3
  totLen := 0#7
  fragId0 := 0#8
  fragId1 := 0#8
  fragId2 := 0#8
  fragId3 := 0#8
  outst := 0#4
  coll := 0#4
  asmLen := 0#7
  buf := []
  draws := 0
  readData := 0#32
  pending := []

end Sys2Proof.Machine
end

