-- ==== Sys2Proof/Machine/Operands.lean ====
section
/-! DEFINITION. The operand forms: bytes of a register most significant first (R74, R96), the big-endian
value of a byte sequence (R8), single bits, the valid mask and a masked field (R163, R164), and the
record a raw frame unpacks to (R101). Pure functions; nothing here reads the state. -/

namespace Sys2Proof.Machine

/-- The four bytes of a 32-bit register, bits 31 to 24 first (R74, R96). -/
def bytes32 (v : BitVec 32) : List Byte :=
  [v.extractLsb' 24 8, v.extractLsb' 16 8, v.extractLsb' 8 8, v.extractLsb' 0 8]

/-- The two bytes of a 16-bit value, high byte first (R74, R98, R100). -/
def bytes16 (v : BitVec 16) : List Byte :=
  [v.extractLsb' 8 8, v.extractLsb' 0 8]

/-- `be(s)` of R8: the big-endian unsigned value of a byte sequence. -/
def be (bs : List Byte) : Nat :=
  bs.foldl (fun acc b => 256 * acc + b.toNat) 0

/-- The `len` bytes of `bs` from offset `off` on, `s[off .. off + len - 1]` of R8. -/
def slice (bs : List Byte) (off len : Nat) : List Byte :=
  (bs.drop off).take len

/-- `v` with bit `i` set to 1. -/
def setBit {n : Nat} (v : BitVec n) (i : Nat) : BitVec n :=
  v ||| BitVec.twoPow n i

/-- `v` with bit `i` set to 0. -/
def clearBit {n : Nat} (v : BitVec n) (i : Nat) : BitVec n :=
  v &&& ~~~BitVec.twoPow n i

/-- `validMask(t)` of R163. -/
def validMask (timedOut : Bool) : BitVec 16 :=
  if timedOut then 0x0000#16 else 0xFFFF#16

/-- `fieldValue(buf, off, w, m)` of R164. -/
def fieldValue (bs : List Byte) (off w : Nat) (m : BitVec 16) : BitVec 32 :=
  BitVec.ofNat 32 (be (slice bs off w)) &&& m.setWidth 32

/-- What `unpack` of R101 makes of a raw frame. -/
structure Fragment where
  id : Byte
  payload : List Byte
  crc : Byte
  covered : List Byte
  deriving DecidableEq, Repr

/-- `unpack(RXF)` of R101. -/
def unpack (r : List Byte) : Fragment where
  id := r.getD Config.fragIdOff 0#8
  payload := slice r Config.fragPayOff Config.fragPayload
  crc := r.getD Config.fragCrcOff 0#8
  covered := slice r 0 Config.fragCrcOff

end Sys2Proof.Machine
end

