-- ==== Sys2Proof/Machine/Flags.lean ====
section
/-! DEFINITION. The flags of STATUS and ERR (R24, R25, R218) and the one operation that raises them, `flag`
of R10. The block has no exceptions (R214); `flag` is what stands in their place. -/

namespace Sys2Proof.Machine

/-- The five flags of STATUS, R24. -/
inductive StatusFlag where
  | dataValid
  | frameChecksumError
  | reassemblyChecksumError
  | timedOut
  | commandUnacknowledged
  deriving DecidableEq, Repr

/-- The bit of STATUS that holds a flag, R24 and R218. -/
def StatusFlag.bit : StatusFlag → Nat
  | .dataValid => 0
  | .frameChecksumError => 1
  | .reassemblyChecksumError => 2
  | .timedOut => 3
  | .commandUnacknowledged => 4

/-- The six flags of ERR, R25. -/
inductive ErrFlag where
  | eFamily
  | eOpcode
  | eLen
  | eReg
  | eRange
  | eIncomplete
  deriving DecidableEq, Repr

/-- The bit of ERR that holds a flag, R25 and R218. -/
def ErrFlag.bit : ErrFlag → Nat
  | .eFamily => 0
  | .eOpcode => 1
  | .eLen => 2
  | .eReg => 3
  | .eRange => 4
  | .eIncomplete => 5

/-- `flag STATUS.<name>` of R10: set that one bit, leave every other bit. -/
def State.flagStatus (f : StatusFlag) (s : State) : State :=
  { s with status := setBit s.status f.bit }

/-- `flag ERR.<name>` of R10: set that one bit, leave every other bit. -/
def State.flagErr (f : ErrFlag) (s : State) : State :=
  { s with err := setBit s.err f.bit }

/-- STATUS.timedOut, the one STATUS bit a command reads (R24). -/
def State.timedOut (s : State) : Bool :=
  s.status.getLsbD StatusFlag.timedOut.bit

end Sys2Proof.Machine
end

