-- ==== Sys2Proof/Machine/Ops.lean ====
section
/-! DEFINITION. The shared operations: reading and writing the byte buffers, the register map of R71, the
access kinds of R21, `RegRead` of R72, and `RegWrite` of R73 for every register but CMD (a write to CMD runs a
command and stands in Access.lean, after `exec`). -/

namespace Sys2Proof.Machine

/-! ### The byte buffers -/

/-- The byte a buffer register holds. -/
def Memory.read : Memory → Nat → Byte
  | [], _ => Memory.unlisted
  | (b, w) :: rest, a => if b = a then w else Memory.read rest a

/-- Put `v` at register number `a`, keeping the canonical form: writing the unlisted byte removes the
entry. -/
def Memory.write : Memory → Nat → Byte → Memory
  | [], a, v => if v = Memory.unlisted then [] else [(a, v)]
  | (b, w) :: rest, a, v =>
    if a < b then
      if v = Memory.unlisted then (b, w) :: rest else (a, v) :: (b, w) :: rest
    else if a = b then
      if v = Memory.unlisted then rest else (a, v) :: rest
    else (b, w) :: Memory.write rest a v

/-- Put the bytes of `bs` at the numbers `a`, `a + 1`, ..., in that order. -/
def Memory.writeBytes : Memory → Nat → List Byte → Memory
  | m, _, [] => m
  | m, a, v :: vs => Memory.writeBytes (Memory.write m a v) (a + 1) vs

/-- The `n` bytes at the numbers `a` to `a + n - 1`. -/
def Memory.readBytes (m : Memory) (a n : Nat) : List Byte :=
  (List.range n).map fun k => m.read (a + k)

/-- Store bytes into the buffers from register number `a` on. -/
def State.writeBuf (a : Nat) (bs : List Byte) (s : State) : State :=
  { s with buf := s.buf.writeBytes a bs }

/-! ### The register map -/

/-- The five byte buffers, R46 to R50. -/
inductive Buffer where
  | txp
  | txf
  | rxf
  | asm
  | slot
  deriving DecidableEq, Repr

/-- The number of a buffer's first register (R71). -/
def Buffer.base : Buffer → Nat
  | .txp => Config.txpBase
  | .txf => Config.txfBase
  | .rxf => Config.rxfBase
  | .asm => Config.asmBase
  | .slot => Config.slotBase

/-- How many registers a buffer has (R46 to R50). -/
def Buffer.size : Buffer → Nat
  | .txp => Config.txpMax
  | .txf => Config.txMax
  | .rxf => Config.rawLen
  | .asm => Config.asmMax
  | .slot => Config.nslot * Config.fragPayload

/-- Whether a register number is one of a buffer's. -/
def Buffer.covers (b : Buffer) (k : Nat) : Bool :=
  b.base ≤ k && k < b.base + b.size

/-- A mapped register: one of R24 to R45 by its name, or the byte of a buffer at its number. -/
inductive Reg where
  | cmd
  | status
  | err
  | result
  | ctrl
  | c16
  | c8
  | serialLo
  | serialHi
  | family
  | invAddr
  | dtuAddr
  | typeByte
  | frameId
  | epoch
  | value
  | modifier
  | txpLen
  | txfLen
  | nfrag
  | totLen
  | fragId (i : Fin 4)
  | outst
  | coll
  | asmLen
  | byte (b : Buffer) (k : Nat)
  deriving DecidableEq, Repr

/-- The buffer register at number `k`, if a buffer has one there. -/
def bufferReg (k : Nat) : Option Reg :=
  if Buffer.txp.covers k then some (.byte .txp k)
  else if Buffer.txf.covers k then some (.byte .txf k)
  else if Buffer.rxf.covers k then some (.byte .rxf k)
  else if Buffer.asm.covers k then some (.byte .asm k)
  else if Buffer.slot.covers k then some (.byte .slot k)
  else none

/-- The named register at number `k`, if one is there: the rows of R71 that are no byte buffer. -/
def namedReg : Nat → Option Reg
  | 0x000 => some .cmd
  | 0x001 => some .status
  | 0x002 => some .err
  | 0x003 => some .result
  | 0x004 => some .ctrl
  | 0x005 => some .c16
  | 0x006 => some .c8
  | 0x010 => some .serialLo
  | 0x011 => some .serialHi
  | 0x012 => some .family
  | 0x013 => some .invAddr
  | 0x014 => some .dtuAddr
  | 0x015 => some .typeByte
  | 0x016 => some .frameId
  | 0x017 => some .epoch
  | 0x018 => some .value
  | 0x019 => some .modifier
  | 0x01A => some .txpLen
  | 0x01B => some .txfLen
  | 0x020 => some .nfrag
  | 0x021 => some .totLen
  | 0x024 => some (.fragId 0)
  | 0x025 => some (.fragId 1)
  | 0x026 => some (.fragId 2)
  | 0x027 => some (.fragId 3)
  | 0x028 => some .outst
  | 0x029 => some .coll
  | 0x02A => some .asmLen
  | _ => none

/-- The register map, R71: the register at a number, `none` where the number is unmapped. -/
def regAt (n : RegNum) : Option Reg :=
  match bufferReg n.toNat with
  | some r => some r
  | none => namedReg n.toNat

/-- The access kinds of R21; `rwChecked` carries the greatest legal value. -/
inductive AccessKind where
  | rw
  | rwChecked (max : Nat)
  | ro
  | wo
  deriving DecidableEq, Repr

/-- The access kind of a register, R71. -/
def Reg.access : Reg → AccessKind
  | .cmd => .wo
  | .status => .rw
  | .err => .rw
  | .result => .ro
  | .ctrl => .rw
  | .c16 => .rw
  | .c8 => .rw
  | .serialLo => .rw
  | .serialHi => .rw
  | .family => .ro
  | .invAddr => .rw
  | .dtuAddr => .rw
  | .typeByte => .rw
  | .frameId => .rw
  | .epoch => .rw
  | .value => .rw
  | .modifier => .rw
  | .txpLen => .rwChecked 21
  | .txfLen => .ro
  | .nfrag => .rwChecked 4
  | .totLen => .rwChecked 64
  | .fragId _ => .rw
  | .outst => .ro
  | .coll => .ro
  | .asmLen => .ro
  | .byte .txp _ => .rw
  | .byte .txf _ => .ro
  | .byte .rxf _ => .rw
  | .byte .asm _ => .ro
  | .byte .slot _ => .ro

/-- FRAGID0 to FRAGID3 by schema position (R42). -/
def State.fragId (s : State) : Fin 4 → Byte
  | 0 => s.fragId0
  | 1 => s.fragId1
  | 2 => s.fragId2
  | 3 => s.fragId3

/-- Write FRAGID0 to FRAGID3 by schema position (R42). -/
def State.setFragId (i : Fin 4) (v : Byte) (s : State) : State :=
  match i with
  | 0 => { s with fragId0 := v }
  | 1 => { s with fragId1 := v }
  | 2 => { s with fragId2 := v }
  | 3 => { s with fragId3 := v }

/-- The value of a register, zero-extended to 32 bits (R21); CMD reads as 0 (R28). -/
def Reg.load (s : State) : Reg → Word
  | .cmd => 0#32
  | .status => s.status.setWidth 32
  | .err => s.err.setWidth 32
  | .result => s.result
  | .ctrl => s.ctrl.setWidth 32
  | .c16 => s.c16.setWidth 32
  | .c8 => s.c8.setWidth 32
  | .serialLo => s.serialLo
  | .serialHi => s.serialHi
  | .family => s.family.setWidth 32
  | .invAddr => s.invAddr
  | .dtuAddr => s.dtuAddr
  | .typeByte => s.typeByte.setWidth 32
  | .frameId => s.frameId.setWidth 32
  | .epoch => s.epoch
  | .value => s.value.setWidth 32
  | .modifier => s.modifier.setWidth 32
  | .txpLen => s.txpLen.setWidth 32
  | .txfLen => s.txfLen.setWidth 32
  | .nfrag => s.nfrag.setWidth 32
  | .totLen => s.totLen.setWidth 32
  | .fragId i => (s.fragId i).setWidth 32
  | .outst => s.outst.setWidth 32
  | .coll => s.coll.setWidth 32
  | .asmLen => s.asmLen.setWidth 32
  | .byte _ k => (s.buf.read k).setWidth 32

/-- `x[n] <- trunc_w(v)` for a register of width w (R21, R73). CMD holds nothing (R28). -/
def Reg.store (v : Word) (s : State) : Reg → State
  | .cmd => s
  | .status => { s with status := v.setWidth 5 }
  | .err => { s with err := v.setWidth 6 }
  | .result => { s with result := v }
  | .ctrl => { s with ctrl := v.setWidth 1 }
  | .c16 => { s with c16 := v.setWidth 16 }
  | .c8 => { s with c8 := v.setWidth 8 }
  | .serialLo => { s with serialLo := v }
  | .serialHi => { s with serialHi := v }
  | .family => { s with family := v.setWidth 2 }
  | .invAddr => { s with invAddr := v }
  | .dtuAddr => { s with dtuAddr := v }
  | .typeByte => { s with typeByte := v.setWidth 8 }
  | .frameId => { s with frameId := v.setWidth 8 }
  | .epoch => { s with epoch := v }
  | .value => { s with value := v.setWidth 16 }
  | .modifier => { s with modifier := v.setWidth 16 }
  | .txpLen => { s with txpLen := v.setWidth 5 }
  | .txfLen => { s with txfLen := v.setWidth 6 }
  | .nfrag => { s with nfrag := v.setWidth 3 }
  | .totLen => { s with totLen := v.setWidth 7 }
  | .fragId i => s.setFragId i (v.setWidth 8)
  | .outst => { s with outst := v.setWidth 4 }
  | .coll => { s with coll := v.setWidth 4 }
  | .asmLen => { s with asmLen := v.setWidth 7 }
  | .byte _ k => s.writeBuf k [v.setWidth 8]

/-! ### The bus primitives -/

/-- `RegRead(n)`, R72: an unmapped number and CMD read 0, and no read changes the state. -/
def regRead (n : RegNum) (s : State) : Word :=
  match regAt n with
  | none => 0#32
  | some r => r.load s

/-- `RegWrite` to a mapped register that is not CMD, R73: a read-only register flags E_REG, a checked one
compares the whole 32-bit value with its range, any other stores the low bits that fit. -/
def Reg.write (v : Word) (s : State) (r : Reg) : State :=
  match r.access with
  | .ro => s.flagErr .eReg
  | .rwChecked max => if max < v.toNat then s.flagErr .eRange else r.store v s
  | .rw => r.store v s
  | .wo => s

end Sys2Proof.Machine
end

