-- ==== Sys2Proof/Machine/Checksum.lean ====
section
/-! DEFINITION. The checksum engine (40_checksum.md): `crc16Modbus`, `crc8Custom` and the streaming
commands C16CLR, C16UPD, C8CLR, C8UPD. -/

namespace Sys2Proof.Machine

/-- One pass of the loop of R120. -/
def crc16Shift (c : BitVec 16) : BitVec 16 :=
  if c.getLsbD 0 then (c >>> 1) ^^^ 0xA001#16 else c >>> 1

/-- `crc16_step(c, b)` of R120. -/
def crc16Step (c : BitVec 16) (b : Byte) : BitVec 16 :=
  crc16Shift^[8] (c ^^^ b.setWidth 16)

/-- The seed of the CRC-16 (R121). -/
def crc16Seed : BitVec 16 := 0xFFFF#16

/-- `crc16Modbus(s)` of R121. -/
def crc16Modbus (s : List Byte) : BitVec 16 :=
  s.foldl crc16Step crc16Seed

/-- One pass of the loop of R123. -/
def crc8Shift (c : BitVec 8) : BitVec 8 :=
  if c.getLsbD 7 then (c <<< 1) ^^^ 0x01#8 else c <<< 1

/-- `crc8_step(c, b)` of R123. -/
def crc8Step (c : BitVec 8) (b : Byte) : BitVec 8 :=
  crc8Shift^[8] (c ^^^ b)

/-- The seed of the CRC-8 (R124). -/
def crc8Seed : BitVec 8 := 0x00#8

/-- `crc8Custom(s)` of R124. -/
def crc8Custom (s : List Byte) : BitVec 8 :=
  s.foldl crc8Step crc8Seed

/-- C16CLR, R126. -/
def execC16clr (s : State) : Host.Outcome State Fault Refusal :=
  .next { s with c16 := crc16Seed }

/-- C16UPD, R127. -/
def execC16upd (a : Byte) (s : State) : Host.Outcome State Fault Refusal :=
  .next { s with c16 := crc16Step s.c16 a }

/-- C8CLR, R128. -/
def execC8clr (s : State) : Host.Outcome State Fault Refusal :=
  .next { s with c8 := crc8Seed }

/-- C8UPD, R129. -/
def execC8upd (a : Byte) (s : State) : Host.Outcome State Fault Refusal :=
  .next { s with c8 := crc8Step s.c8 a }

end Sys2Proof.Machine
end

