-- ==== Sys2Proof/Machine/FramePack.lean ====
section
/-! DEFINITION. The outbound half of the frame codec (41_frame_pack.md): the frame as a function, the
procedure `pack`, and PACK, BLDINFO, BLDCMD, BLDLIM. -/

namespace Sys2Proof.Machine

/-- The frame before its checksums: type, inverter address, DTU address, frame id, payload (R94, R141). -/
def frameBody (t : Byte) (inv dtu : BitVec 32) (f : Byte) (p : List Byte) : List Byte :=
  t :: (bytes32 inv ++ bytes32 dtu ++ f :: p)

/-- The CRC-16 seal of a payload, high byte first; absent when the enable bit is 0 (R98, R141). -/
def payloadSeal (p : List Byte) (c : BitVec 1) : List Byte :=
  if c = 1#1 then bytes16 (crc16Modbus p) else []

/-- `frameBytes(t, inv, dtu, f, p, c)` of R141. -/
def frameBytes (t : Byte) (inv dtu : BitVec 32) (f : Byte) (p : List Byte) (c : BitVec 1) :
    List Byte :=
  let b := frameBody t inv dtu f p ++ payloadSeal p c
  b ++ [crc8Custom b]

/-- The length of a frame with an `n`-byte payload: `10 + n + 2c + 1` (R94, R143). -/
def frameLength (n : Nat) (c : BitVec 1) : Nat :=
  10 + n + 2 * c.toNat + 1

/-- `pack(t, n, c)` of R143: build the frame from the registers and TXP[0..n-1] into TXF, or refuse a frame
over 32 bytes with E_LEN. -/
def State.pack (t : Byte) (n : Nat) (c : BitVec 1) (s : State) : State :=
  if Config.txMax < frameLength n c then
    State.flagErr .eLen { s with txfLen := 0#6, result := 0#32 }
  else
    State.writeBuf Config.txfBase
      (frameBytes t s.invAddr s.dtuAddr s.frameId (s.buf.readBytes Config.txpBase n) c)
      { s with
        txfLen := BitVec.ofNat 6 (frameLength n c)
        result := BitVec.ofNat 32 (frameLength n c) }

/-- What BLDINFO, BLDCMD and BLDLIM share (R140, R146, R148, R150): put the payload into TXP, set TXPLEN, then
build the frame of type `t` with the CRC-16. -/
def State.build (t : Byte) (p : List Byte) (s : State) : State :=
  State.pack t p.length 1#1
    (State.writeBuf Config.txpBase p { s with txpLen := BitVec.ofNat 5 p.length })

/-- Byte `i` of `infoPayload(e)` (R99, R145): the time, most significant byte first, over the template. -/
def infoByte (e : BitVec 32) (i : Fin 13) : Byte :=
  if i.val = Config.infoTimeOff.val then e.extractLsb' 24 8
  else if i.val = Config.infoTimeOff.val + 1 then e.extractLsb' 16 8
  else if i.val = Config.infoTimeOff.val + 2 then e.extractLsb' 8 8
  else if i.val = Config.infoTimeOff.val + 3 then e.extractLsb' 0 8
  else Config.infoTemplate i

/-- `infoPayload(e)` of R145: 13 bytes. -/
def infoPayload (e : BitVec 32) : List Byte :=
  [infoByte e 0, infoByte e 1, infoByte e 2, infoByte e 3, infoByte e 4, infoByte e 5, infoByte e 6,
    infoByte e 7, infoByte e 8, infoByte e 9, infoByte e 10, infoByte e 11, infoByte e 12]

/-- `cmdPayload(code, hv, val, mod)` of R147. -/
def cmdPayload (code : Byte) (hv : Bool) (val mod : BitVec 16) : List Byte :=
  if hv then code :: (bytes16 val ++ bytes16 mod) else [code]

/-- `limitModifier(rel, per)` of R149. -/
def limitModifier (rel per : Bool) : BitVec 16 :=
  (if per then 0x0100#16 else 0#16) ||| (if rel then 0x0001#16 else 0#16)

/-- PACK, R144. -/
def execPack (s : State) : Host.Outcome State Fault Refusal :=
  .next (s.pack s.typeByte s.txpLen.toNat s.ctrl)

/-- BLDINFO, R146. -/
def execBldinfo (s : State) : Host.Outcome State Fault Refusal :=
  .next (s.build Config.typeInfo (infoPayload s.epoch))

/-- BLDCMD, R148: bit 0 of `b` is `hasValue`. -/
def execBldcmd (a b : Byte) (s : State) : Host.Outcome State Fault Refusal :=
  .next (s.build Config.typeCtrl (cmdPayload a (b.getLsbD 0) s.value s.modifier))

/-- BLDLIM, R150: bit 0 of `b` is `relative`, bit 1 is `persist`; MODIFIER is written first. -/
def execBldlim (b : Byte) (s : State) : Host.Outcome State Fault Refusal :=
  let m := limitModifier (b.getLsbD 0) (b.getLsbD 1)
  .next (State.build Config.typeCtrl (cmdPayload Config.cmdSetPowerLimit true s.value m)
    { s with modifier := m })

end Sys2Proof.Machine
end

