-- ==== Sys2Proof/Machine/Housekeeping.lean ====
section
/-! DEFINITION. The housekeeping commands (44_housekeeping.md): NOP and SRESET, and the one operation that
puts the block into its reset state. -/

namespace Sys2Proof.Machine

/-- Every register and buffer at its reset value (R54, R202, R240). The model's own fields are not the
block's and stay: the host's accesses still to come, the value it last read, and the count of unspecified
bytes drawn, so that a reset makes no two draws equal (log 4, log 10). -/
def State.resetBlock (s : State) : State :=
  { State.reset with draws := s.draws, readData := s.readData, pending := s.pending }

/-- NOP, R201. -/
def execNop (s : State) : Host.Outcome State Fault Refusal :=
  .next s

/-- SRESET, R202. -/
def execSreset (s : State) : Host.Outcome State Fault Refusal :=
  .next s.resetBlock

end Sys2Proof.Machine
end

