-- ==== Sys2Proof/Machine/Identity.lean ====
section
/-! DEFINITION. Identity and parsing (42_identity_parse.md): the family of a serial, IDENT, which loads the
schema registers, and FIELD, which reads one masked big-endian field of the assembled buffer. -/

namespace Sys2Proof.Machine

/-- The loop of R160, at most `fuel` divisions. -/
def prefixLoop : Nat → Nat → Nat
  | 0, p => p
  | fuel + 1, p => if 10000 ≤ p then prefixLoop fuel (p / 10) else p

/-- `prefix4(s)` of R160: 16 divisions are enough for every 64-bit serial. -/
def prefix4 (s : Nat) : Nat := prefixLoop 16 s

/-- `familyOf(s)` of R161; `none` is the spec's 0, no family. -/
def familyOf (s : Nat) : Option Family :=
  if prefix4 s = 1121 then some .family1
  else if prefix4 s = 1141 then some .family2
  else if prefix4 s = 1161 then some .family3
  else none

/-- The number of a family in FAMILY and RESULT (R32, R161). -/
def familyNumber : Family → BitVec 2
  | .family1 => 1#2
  | .family2 => 2#2
  | .family3 => 3#2

/-- TOTLEN of a family (R161). -/
def familyTotLen : Family → BitVec 7
  | .family1 => 32#7
  | .family2 => 44#7
  | .family3 => 64#7

/-- NFRAG of a family (R161). -/
def familyNfrag : Family → BitVec 3
  | .family1 => 2#3
  | .family2 => 3#3
  | .family3 => 4#3

/-- What IDENT loads into FRAGID`i`: the parameter's id below NFRAG, 0 from there on (R162). -/
def familyFragId (f : Family) (i : Fin 4) : Byte :=
  if i.val < (familyNfrag f).toNat then Config.fragIds f i else 0#8

/-- The 64-bit serial (R31). -/
def State.serial (s : State) : Nat :=
  s.serialHi.toNat * 2 ^ 32 + s.serialLo.toNat

/-- The end of IDENT when the serial has no family (R162, R211). -/
def State.identFail (s : State) : State :=
  State.flagErr .eFamily { s with family := 0#2, result := 0#32 }

/-- The end of IDENT when the serial has a family (R162). -/
def State.identLoad (f : Family) (s : State) : State :=
  { s with
    family := familyNumber f
    result := (familyNumber f).setWidth 32
    totLen := familyTotLen f
    nfrag := familyNfrag f
    fragId0 := familyFragId f 0
    fragId1 := familyFragId f 1
    fragId2 := familyFragId f 2
    fragId3 := familyFragId f 3 }

/-- IDENT, R162. -/
def execIdent (s : State) : Host.Outcome State Fault Refusal :=
  .next (match familyOf s.serial with
    | none => s.identFail
    | some f => s.identLoad f)

/-- ASM[0..ASMLEN-1], the valid part of the assembled buffer (R49, R102). -/
def State.asmBytes (s : State) : List Byte :=
  s.buf.readBytes Config.asmBase s.asmLen.toNat

/-- FIELD, R166: `a` is the offset, `b` the width; the sum is taken without wrap-around. -/
def execField (a b : Byte) (s : State) : Host.Outcome State Fault Refusal :=
  .next (if b.toNat = 0 ∨ 4 < b.toNat ∨ s.asmLen.toNat < a.toNat + b.toNat then
      State.flagErr .eRange { s with result := 0#32 }
    else
      { s with result := fieldValue s.asmBytes a.toNat b.toNat (validMask s.timedOut) })

end Sys2Proof.Machine
end

