-- ==== Sys2Proof/Machine/Reassembly.lean ====
section
/-! DEFINITION. Fragment unpacking and reassembly (43_reassembly.md): RSTASM, ABSORB, ASSEMBLE, VERIFY,
ASMZERO. -/

namespace Sys2Proof.Machine

/-- `rstasm()` of R182: every schema position awaited, none collected. -/
def State.rstasm (s : State) : State :=
  { s with outst := BitVec.ofNat 4 (2 ^ s.nfrag.toNat - 1), coll := 0#4 }

/-- RSTASM, R182. -/
def execRstasm (s : State) : Host.Outcome State Fault Refusal :=
  .next s.rstasm

/-- `fragmentOk(r)` of R181, on the unpacked frame. -/
def fragmentOk (f : Fragment) : Bool :=
  crc8Custom f.covered == f.crc

/-- The raw frame RXF[0..31] (R48, R101). -/
def State.rawFrame (s : State) : List Byte :=
  s.buf.readBytes Config.rxfBase Config.rawLen

/-- One round of ABSORB's loop (R184): if schema position `i` expects this id, store the payload in its slot,
mark it collected and no longer awaited. -/
def State.absorbAt (f : Fragment) (s : State) (i : Fin 4) : State :=
  if i.val < s.nfrag.toNat ∧ s.fragId i = f.id then
    State.writeBuf (Config.slotBase + Config.fragPayload * i.val) f.payload
      { s with coll := setBit s.coll i.val, outst := clearBit s.outst i.val }
  else s

/-- The loop of R184 over the schema positions, in their order. -/
def State.absorbGood (f : Fragment) (s : State) : State :=
  [0, 1, 2, 3].foldl (State.absorbAt f) s

/-- RESULT of ABSORB on a good fragment: whether the schema is satisfied (R180, R184). -/
def satisfiedResult (outst : BitVec 4) : BitVec 32 :=
  if outst = 0#4 then 1#32 else 0#32

/-- ABSORB, R184. -/
def execAbsorb (s : State) : Host.Outcome State Fault Refusal :=
  let f := unpack s.rawFrame
  .next (if fragmentOk f then
      { s.absorbGood f with result := satisfiedResult (s.absorbGood f).outst }
    else
      State.flagStatus .frameChecksumError { s with result := 0#32 })

/-- `asmLength` of R186. -/
def State.asmLength (s : State) : Nat :=
  min (Config.fragPayload * s.nfrag.toNat) s.totLen.toNat

/-- Whether byte `k` of the assembled buffer comes from a position that is not collected (R188). -/
def missingByte (coll : BitVec 4) (k : Nat) : Bool :=
  !coll.getLsbD (k / Config.fragPayload)

/-- How many of the bytes below `k` are unspecified: each of them takes one draw (R12, R188; log 4). -/
def missingBelow (coll : BitVec 4) (k : Nat) : Nat :=
  ((List.range k).filter (missingByte coll)).length

/-- Byte `k` that ASSEMBLE writes (R188): SLOT[k div 16][k mod 16] where that position is collected, otherwise
an unspecified byte, a draw of its own. -/
def State.assembledByte (s : State) (k : Nat) : Byte :=
  if missingByte s.coll k then Config.unspecByte (s.draws + missingBelow s.coll k)
  else s.buf.read (Config.slotBase + k)

/-- The end of ASSEMBLE: flag E_INCOMPLETE when a position is still awaited (R188). -/
def State.flagIncomplete (s : State) : State :=
  if s.outst = 0#4 then s else s.flagErr .eIncomplete

/-- ASSEMBLE, R188. -/
def execAssemble (s : State) : Host.Outcome State Fault Refusal :=
  let len := s.asmLength
  .next (State.flagIncomplete (State.writeBuf Config.asmBase ((List.range len).map s.assembledByte)
    { s with
      asmLen := BitVec.ofNat 7 len
      result := BitVec.ofNat 32 len
      draws := s.draws + missingBelow s.coll len }))

/-- `crc16ok(buf)` of R189. -/
def crc16ok (bs : List Byte) : Bool :=
  if bs.length < 2 then false
  else (crc16Modbus (slice bs 0 (bs.length - 2))).toNat == be (slice bs (bs.length - 2) 2)

/-- VERIFY, R190. -/
def execVerify (s : State) : Host.Outcome State Fault Refusal :=
  .next (if crc16ok s.asmBytes then
      State.flagStatus .dataValid { s with result := 1#32 }
    else
      State.rstasm (State.flagStatus .reassemblyChecksumError { s with result := 0#32 }))

/-- ASMZERO, R192. -/
def execAsmzero (s : State) : Host.Outcome State Fault Refusal :=
  .next (State.writeBuf Config.asmBase (List.replicate s.totLen.toNat 0x00#8)
    { s with asmLen := s.totLen })

end Sys2Proof.Machine
end

