-- ==== Sys2Proof/Machine/Dispatch.lean ====
section
/-! DEFINITION. One arm per command, each one call of the command's meaning. -/

namespace Sys2Proof.Machine

def exec (i : Instr) (s : State) : Host.Outcome State Fault Refusal :=
  match i with
  | .nop => Sys2Proof.Machine.execNop s
  | .sreset => Sys2Proof.Machine.execSreset s
  | .c16clr => Sys2Proof.Machine.execC16clr s
  | .c16upd a => Sys2Proof.Machine.execC16upd a s
  | .c8clr => Sys2Proof.Machine.execC8clr s
  | .c8upd a => Sys2Proof.Machine.execC8upd a s
  | .pack => Sys2Proof.Machine.execPack s
  | .bldinfo => Sys2Proof.Machine.execBldinfo s
  | .bldcmd a b => Sys2Proof.Machine.execBldcmd a b s
  | .bldlim b => Sys2Proof.Machine.execBldlim b s
  | .ident => Sys2Proof.Machine.execIdent s
  | .field a b => Sys2Proof.Machine.execField a b s
  | .rstasm => Sys2Proof.Machine.execRstasm s
  | .absorb => Sys2Proof.Machine.execAbsorb s
  | .assemble => Sys2Proof.Machine.execAssemble s
  | .verify => Sys2Proof.Machine.execVerify s
  | .asmzero => Sys2Proof.Machine.execAsmzero s

end Sys2Proof.Machine
end

