-- ==== Sys2Proof/Machine/Access.lean ====
section
/-! DEFINITION. What one event of the host does: a register read, a register write (a write to CMD decodes and
runs a command), a hardware reset. -/

namespace Sys2Proof.Machine

/-- Execute the command with word `w` (R28, R90): an illegal word flags E_OPCODE and changes nothing else
(R93). -/
def execWord (w : Word) (s : State) : Host.Outcome State Fault Refusal :=
  match decode w with
  | .ok i => exec i s
  | .error _ => .next (s.flagErr .eOpcode)

/-- `RegWrite(n, v)`, R73, in the order of checks of R220. -/
def regWrite (n : RegNum) (v : Word) (s : State) : Host.Outcome State Fault Refusal :=
  match regAt n with
  | none => .next (s.flagErr .eReg)
  | some .cmd => execWord v s
  | some r => .next (r.write v s)

/-- What one event of the host does (R72, R73, R240; log 3, log 10). -/
def perform (e : HostEvent) (s : State) : Host.Outcome State Fault Refusal :=
  match e with
  | .read n => .next { s with readData := regRead n s }
  | .write n v => regWrite n v s
  | .hardReset => .next s.resetBlock

/-- Perform the next event of the host, complete, before any later one (R13, R78); with none pending the block
is idle and nothing changes (R224; log 1, log 2). -/
def performNext (s : State) : Host.Outcome State Fault Refusal :=
  match s.pending with
  | [] => .next s
  | e :: rest => perform e { s with pending := rest }

/-- `s` with the write of the word `w` to CMD as the next event of the host (log 1). -/
def State.issueWord (w : Word) (s : State) : State :=
  { s with pending := .write 0x000#12 w :: s.pending }

end Sys2Proof.Machine
end

