-- ==== Sys2Proof/Machine/Step.lean ====
section
/-! DEFINITION. One step of the machine: one event of the host, performed to completion. -/

namespace Sys2Proof.Machine

/-- One step (R13, R78). -/
def step (s : State) : Host.Outcome State Fault Refusal :=
  performNext s

/-- `s` with the command word whose low `nbits` bits are those of `w` as the next write to CMD (log 1). -/
def State.withFetchWord (s : State) (nbits w : Nat) : State :=
  s.issueWord (tableWord nbits w)

end Sys2Proof.Machine
end

