-- ==== Sys2Proof/Machine/Assembler.lean ====
section
/-! DEFINITION. The host's side of the bus: the assembler lines of R104 and the pseudo-instructions of R105, as
lists of the host's events. Nothing of the block depends on this file. -/

namespace Sys2Proof.Machine

/-- The number of a register (R71). -/
def Reg.number : Reg → RegNum
  | .cmd => 0x000#12
  | .status => 0x001#12
  | .err => 0x002#12
  | .result => 0x003#12
  | .ctrl => 0x004#12
  | .c16 => 0x005#12
  | .c8 => 0x006#12
  | .serialLo => 0x010#12
  | .serialHi => 0x011#12
  | .family => 0x012#12
  | .invAddr => 0x013#12
  | .dtuAddr => 0x014#12
  | .typeByte => 0x015#12
  | .frameId => 0x016#12
  | .epoch => 0x017#12
  | .value => 0x018#12
  | .modifier => 0x019#12
  | .txpLen => 0x01A#12
  | .txfLen => 0x01B#12
  | .nfrag => 0x020#12
  | .totLen => 0x021#12
  | .fragId i => BitVec.ofNat 12 (0x024 + i.val)
  | .outst => 0x028#12
  | .coll => 0x029#12
  | .asmLen => 0x02A#12
  | .byte _ k => BitVec.ofNat 12 k

/-- `WR <register>, <value>` (R104). -/
def asmWr (r : Reg) (v : Word) : HostEvent := .write r.number v

/-- `RD <register>` (R104). -/
def asmRd (r : Reg) : HostEvent := .read r.number

/-- A command line of R104: the write of its word to CMD. -/
def asmCommand (i : Instr) : HostEvent := .write 0x000#12 (encode i)

/-- Writes of consecutive bytes to the registers of a buffer from index 0 on. -/
def asmFill (b : Buffer) (bs : List Byte) : List HostEvent :=
  bs.zipIdx.map fun (v, i) => asmWr (.byte b (b.base + i)) (v.setWidth 32)

/-- `CRC16 b0, ..., bk` (R105). -/
def pseudoCrc16 (bs : List Byte) : List HostEvent :=
  asmCommand .c16clr :: bs.map (fun b => asmCommand (.c16upd b)) ++ [asmRd .c16]

/-- `CRC8 b0, ..., bk` (R105). -/
def pseudoCrc8 (bs : List Byte) : List HostEvent :=
  asmCommand .c8clr :: bs.map (fun b => asmCommand (.c8upd b)) ++ [asmRd .c8]

/-- `CLRFLAGS` (R105). -/
def pseudoClrflags : List HostEvent := [asmWr .status 0#32]

/-- `CLRERR` (R105). -/
def pseudoClrerr : List HostEvent := [asmWr .err 0#32]

/-- `SETTIMEDOUT` (R105): the second access depends on the value the first one read. -/
def pseudoSettimedout (statusRead : Word) : List HostEvent :=
  [asmRd .status, asmWr .status (statusRead ||| 0x08#32)]

/-- `SETUNACK` (R105): the second access depends on the value the first one read. -/
def pseudoSetunack (statusRead : Word) : List HostEvent :=
  [asmRd .status, asmWr .status (statusRead ||| 0x10#32)]

/-- `LDSERIAL s` (R105). -/
def pseudoLdserial (s : Nat) : List HostEvent :=
  [asmWr .serialLo (BitVec.ofNat 32 (s % 2 ^ 32)), asmWr .serialHi (BitVec.ofNat 32 (s / 2 ^ 32))]

/-- `LDRXF r0, ..., r31` (R105). -/
def pseudoLdrxf (r : List Byte) : List HostEvent := asmFill .rxf r

/-- `LDTXP p0, ..., pk` (R105). -/
def pseudoLdtxp (p : List Byte) : List HostEvent :=
  asmFill .txp p ++ [asmWr .txpLen (BitVec.ofNat 32 p.length)]

/-- `ON` (R105). -/
def pseudoOn : List HostEvent := [asmCommand (.bldcmd Config.cmdOn 0#8)]

/-- `OFF` (R105). -/
def pseudoOff : List HostEvent := [asmCommand (.bldcmd Config.cmdOff 0#8)]

/-- `LIMIT v [, REL] [, PERSIST]` (R105). -/
def pseudoLimit (v : Word) (rel per : Bool) : List HostEvent :=
  [asmWr .value v,
    asmCommand (.bldlim ((if rel then 0x01#8 else 0#8) ||| (if per then 0x02#8 else 0#8)))]

end Sys2Proof.Machine
end

