-- ==== Sys2Proof/Safety.lean ====
section
/-! DEFINITION. What a good state and a good step are: the bounds of R53, the memory's canonical form, the
partition of the schema positions of R53, and a step that goes on (R214, R250). -/

namespace Sys2Proof

/-- R26: whether a command writes RESULT as the value it hands back. SRESET, which resets it, is not one. -/
def Instr.writesResult : Instr → Bool
  | .nop => false
  | .sreset => false
  | .c16clr => false
  | .c16upd _ => false
  | .c8clr => false
  | .c8upd _ => false
  | .pack => true
  | .bldinfo => true
  | .bldcmd _ _ => true
  | .bldlim _ => true
  | .ident => true
  | .field _ _ => true
  | .rstasm => false
  | .absorb => true
  | .assemble => true
  | .verify => true
  | .asmzero => false

end Sys2Proof

namespace Sys2Proof.Machine

/-- The bounds of R53: "`ASMLEN <= 64`, `TXFLEN <= 32`, `TXPLEN <= 21`, `NFRAG <= 4`, `TOTLEN <= 64`". -/
abbrev State.LengthsLegal (s : State) : Prop :=
  s.asmLen.toNat ≤ 64 ∧ s.txfLen.toNat ≤ 32 ∧ s.txpLen.toNat ≤ 21 ∧ s.nfrag.toNat ≤ 4 ∧
    s.totLen.toNat ≤ 64

/-- Whether a number is that of a buffer register (R46 to R50, R71). -/
def isBufferNumber (k : Nat) : Bool :=
  (bufferReg k).isSome

/-- Only buffer registers hold bytes: every listed number is one (R71). -/
def Memory.onlyBuffers (m : Memory) : Bool :=
  m.all fun c => isBufferNumber c.1

/-- A state the block can be in, whatever the host does: the bounds hold and the buffers are canonical and
hold bytes only where the register map has a buffer. -/
abbrev State.Legal (s : State) : Prop :=
  s.LengthsLegal ∧ s.buf.wf = true ∧ s.buf.onlyBuffers = true

/-- R53, one schema position: below NFRAG it is either awaited or collected, from NFRAG on it is neither. -/
abbrev State.PositionPartitioned (s : State) (i : Fin 4) : Prop :=
  if i.val < s.nfrag.toNat then s.outst.getLsbD i.val = !s.coll.getLsbD i.val
  else s.outst.getLsbD i.val = false ∧ s.coll.getLsbD i.val = false

/-- R53: every schema position is partitioned between OUTST and COLL. -/
abbrev State.Partitioned (s : State) : Prop :=
  ∀ i : Fin 4, s.PositionPartitioned i

/-- The unmapped register numbers, as the last sentence of R71 lists them. -/
abbrev Unmapped (n : RegNum) : Prop :=
  (0x007 ≤ n.toNat ∧ n.toNat ≤ 0x00F) ∨ (0x01C ≤ n.toNat ∧ n.toNat ≤ 0x01F) ∨ n.toNat = 0x022 ∨
    n.toNat = 0x023 ∨ (0x02B ≤ n.toNat ∧ n.toNat ≤ 0x03F) ∨ (0x055 ≤ n.toNat ∧ n.toNat ≤ 0x05F) ∨
    (0x0A0 ≤ n.toNat ∧ n.toNat ≤ 0x0BF) ∨ 0x140 ≤ n.toNat

/-- The numbers of the read-only registers of R71: RESULT, FAMILY, TXFLEN, OUTST, COLL, ASMLEN, TXF, ASM,
SLOT. -/
abbrev ReadOnly (n : RegNum) : Prop :=
  n.toNat = 0x003 ∨ n.toNat = 0x012 ∨ n.toNat = 0x01B ∨ n.toNat = 0x028 ∨ n.toNat = 0x029 ∨
    n.toNat = 0x02A ∨ (0x060 ≤ n.toNat ∧ n.toNat ≤ 0x07F) ∨ (0x0C0 ≤ n.toNat ∧ n.toNat ≤ 0x13F)

/-- The numbers of the byte registers the host may write, R71: TXP and RXF. -/
abbrev WritableByte (n : RegNum) : Prop :=
  (0x040 ≤ n.toNat ∧ n.toNat ≤ 0x054) ∨ (0x080 ≤ n.toNat ∧ n.toNat ≤ 0x09F)

/-- The numbers of all byte registers, R71: TXP, TXF, RXF, ASM, SLOT. -/
abbrev ByteRegister (n : RegNum) : Prop :=
  (0x040 ≤ n.toNat ∧ n.toNat ≤ 0x054) ∨ (0x060 ≤ n.toNat ∧ n.toNat ≤ 0x09F) ∨
    (0x0C0 ≤ n.toNat ∧ n.toNat ≤ 0x13F)

/-- The host loads a raw frame into RXF[0], RXF[1], ... (R48). -/
def State.loadFrame (r : List Byte) (s : State) : State :=
  s.writeBuf Config.rxfBase r

/-- The host loads raw frames one after another and absorbs each (the accesses of R245, step 2c). -/
def absorbFrames : List (List Byte) → State → Host.Outcome State Fault Refusal
  | [], s => .next s
  | r :: rs, s =>
    match exec .absorb (s.loadFrame r) with
    | .next t => absorbFrames rs t
    | .fault x => .fault x
    | .refused x => .refused x

/-- What BLDINFO, BLDCMD and BLDLIM leave (R143, R146, R148, R150): from `s` to `t` the payload `p` stands in TXP
and the frame of type `ty` over it, with its CRC-16, in TXF; TXPLEN, TXFLEN and RESULT are their lengths; nothing else
changes. -/
abbrev BuildsFrame (s t : State) (ty : Byte) (p : List Byte) : Prop :=
  (∀ k, k < p.length → t.buf.read (0x040 + k) = p.getD k 0#8) ∧
    (∀ k, k < p.length + 13 → t.buf.read (0x060 + k) =
      (frameBytes ty s.invAddr s.dtuAddr s.frameId p 1#1).getD k 0#8) ∧
    (∀ a, (a < 0x040 ∨ 0x040 + p.length ≤ a) → (a < 0x060 ∨ 0x060 + (p.length + 13) ≤ a) →
      t.buf.read a = s.buf.read a) ∧
    t.txpLen.toNat = p.length ∧ t.txfLen.toNat = p.length + 13 ∧ t.result.toNat = p.length + 13 ∧
    t = { s with txpLen := t.txpLen, txfLen := t.txfLen, result := t.result, buf := t.buf }

/-- The command `i` has one word, `word`, and no other word decodes to it (R91 to R93, R104). -/
abbrev EncodedAs (i : Instr) (word : Word) : Prop :=
  ∀ w : Word, decode w = .ok i ↔ w = word

/-- The outcome is a next state: the block neither traps nor hangs (R214, R250). -/
def Proceeds : Host.Outcome State Fault Refusal → Prop
  | .next _ => True
  | .fault _ => False
  | .refused _ => False

end Sys2Proof.Machine
end

