-- ==== Sys2Proof/Certificates/Slice0/Obligations.lean ====
section
/-! DEFINITION. The statements for the provers. Each says what a rule of the spec says the block does, for every
state and every operand. A premise `s.buf.wf = true` (the byte buffers are in their canonical form) or `s.Legal` is the
model's invariant of StepKeepsLegalState; ResetStateIsLegal says that it holds at reset. -/

open Sys2Proof Sys2Proof.Machine

/-! ### The command word -/

/-- R90 to R92, R104: a well-formed command's word decodes to that command, whatever its operands. -/
def Obligations.DecodeAfterEncode : Prop :=
  ∀ i : Instr, i.wellFormed = true → decode (encode i) = .ok i

/-- R90 to R93: a word decodes to at most the one well-formed command whose word it is, so no bit is dropped. -/
def Obligations.EncodeAfterDecode : Prop :=
  ∀ (w : Word) (i : Instr), decode w = .ok i → i.wellFormed = true ∧ encode i = w

/-- R92: a word selects the command of the one row of the table it matches, and at most one row matches. The operand
fields carry bits 15 to 8 and 23 to 16 (EncodeAfterDecode). -/
def Obligations.WordSelectsItsTableRow : Prop :=
  ∀ w : Word,
    (∀ r ∈ commandTable, (w &&& r.mask = r.pattern ↔ ∃ i, decode w = .ok i ∧ i.mnemonic = r.mnemonic)) ∧
    (∀ i, decode w = .ok i → ∃ r ∈ commandTable, r.mnemonic = i.mnemonic ∧ w &&& r.mask = r.pattern) ∧
    ∀ r₁ ∈ commandTable, ∀ r₂ ∈ commandTable,
      w &&& r₁.mask = r₁.pattern → w &&& r₂.mask = r₂.pattern → r₁ = r₂

/-- R104 and 95_test_vectors.md: words written out from the spec decode to their commands. -/
def Obligations.SpecWordsDecode : Prop :=
  decode 0x00000000#32 = .ok .nop ∧ decode 0x00000001#32 = .ok .sreset ∧
    decode 0x00003111#32 = .ok (.c16upd 0x31#8) ∧ decode 0x00003213#32 = .ok (.c8upd 0x32#8) ∧
    decode 0x00010B22#32 = .ok (.bldcmd 11#8 1#8) ∧ decode 0x00030023#32 = .ok (.bldlim 3#8) ∧
    decode 0x00041D31#32 = .ok (.field 29#8 4#8) ∧ decode 0x00000043#32 = .ok .verify

/-- R93: a word that matches no row flags E_OPCODE and changes nothing else; every FIELD word is legal, whatever
its operands, and a bad offset or width flags E_RANGE. -/
def Obligations.IllegalWordOnlyFlagsOpcode : Prop :=
  (∀ (w : Word) (s : State), (∀ r ∈ commandTable, w &&& r.mask ≠ r.pattern) →
    execWord w s = .next { s with err := s.err ||| 0x02#6 }) ∧
  ∀ (a b : Byte) (s : State),
    let w : Word := 0x00000031#32 ||| (a.setWidth 32 <<< 8) ||| (b.setWidth 32 <<< 16)
    decode w = .ok (.field a b) ∧
    ((b.toNat = 0 ∨ 4 < b.toNat ∨ s.asmLen.toNat < a.toNat + b.toNat) →
      execWord w s = .next { s with result := 0#32, err := s.err ||| 0x10#6 })

/-! ### One step -/

/-- R28 over the model's own list of pending accesses (log 1): when the next access writes a word that decodes to
`i` to CMD, the step is `exec i` on the state with that access taken off the list, and nothing is added around it. -/
def Obligations.StepRunsDecodedCommand : Prop :=
  ∀ (s : State) (w : Word) (i : Instr) (rest : List HostEvent),
    s.pending = .write 0x000#12 w :: rest → decode w = .ok i → step s = exec i { s with pending := rest }

/-- R13, R72, R78, R240 over the model's own list of pending accesses (log 1, log 2, log 3, log 10): a step performs
the next event alone: nothing when idle, a read that only returns its value, a write, or a hardware reset, which leaves
what SRESET leaves. -/
def Obligations.StepPerformsNextEvent : Prop :=
  ∀ (s : State) (rest : List HostEvent),
    (s.pending = [] → step s = .next s) ∧
    (∀ n, s.pending = .read n :: rest →
      step s = .next { s with pending := rest, readData := regRead n s }) ∧
    (∀ n v, s.pending = .write n v :: rest → step s = regWrite n v { s with pending := rest }) ∧
    (s.pending = .hardReset :: rest → step s = exec .sreset { s with pending := rest })

/-- R214, R250: no state stops the block: every step answers a next state. -/
def Obligations.EveryStepProceeds : Prop :=
  ∀ s : State, ∃ t, step s = .next t

/-! ### The register interface -/

/-- R71, R72: what a read returns at every register number: CMD and every unmapped number read 0, a register reads
its value zero-extended. -/
def Obligations.EveryNumberReadsItsRegister : Prop :=
  ∀ s : State,
    regRead 0x000#12 s = 0#32 ∧ regRead 0x001#12 s = s.status.setWidth 32 ∧
    regRead 0x002#12 s = s.err.setWidth 32 ∧ regRead 0x003#12 s = s.result ∧
    regRead 0x004#12 s = s.ctrl.setWidth 32 ∧ regRead 0x005#12 s = s.c16.setWidth 32 ∧
    regRead 0x006#12 s = s.c8.setWidth 32 ∧ regRead 0x010#12 s = s.serialLo ∧
    regRead 0x011#12 s = s.serialHi ∧ regRead 0x012#12 s = s.family.setWidth 32 ∧
    regRead 0x013#12 s = s.invAddr ∧ regRead 0x014#12 s = s.dtuAddr ∧
    regRead 0x015#12 s = s.typeByte.setWidth 32 ∧ regRead 0x016#12 s = s.frameId.setWidth 32 ∧
    regRead 0x017#12 s = s.epoch ∧ regRead 0x018#12 s = s.value.setWidth 32 ∧
    regRead 0x019#12 s = s.modifier.setWidth 32 ∧ regRead 0x01A#12 s = s.txpLen.setWidth 32 ∧
    regRead 0x01B#12 s = s.txfLen.setWidth 32 ∧ regRead 0x020#12 s = s.nfrag.setWidth 32 ∧
    regRead 0x021#12 s = s.totLen.setWidth 32 ∧ regRead 0x024#12 s = s.fragId0.setWidth 32 ∧
    regRead 0x025#12 s = s.fragId1.setWidth 32 ∧ regRead 0x026#12 s = s.fragId2.setWidth 32 ∧
    regRead 0x027#12 s = s.fragId3.setWidth 32 ∧ regRead 0x028#12 s = s.outst.setWidth 32 ∧
    regRead 0x029#12 s = s.coll.setWidth 32 ∧ regRead 0x02A#12 s = s.asmLen.setWidth 32 ∧
    (∀ n, ByteRegister n → regRead n s = (s.buf.read n.toNat).setWidth 32) ∧
    ∀ n, Unmapped n → regRead n s = 0#32

/-- R73: what a write does at every register number: CMD runs the command; an unmapped number and a read-only
register flag E_REG; TXPLEN, NFRAG and TOTLEN compare the whole value with their range; every other register
stores the low bits that fit. -/
def Obligations.WriteFollowsAccessKind : Prop :=
  ∀ (v : Word) (s : State),
    regWrite 0x000#12 v s = execWord v s ∧
    (∀ n, Unmapped n ∨ ReadOnly n → regWrite n v s = .next { s with err := s.err ||| 0x08#6 }) ∧
    regWrite 0x01A#12 v s = (if v.toNat ≤ 21 then .next { s with txpLen := v.setWidth 5 }
      else .next { s with err := s.err ||| 0x10#6 }) ∧
    regWrite 0x020#12 v s = (if v.toNat ≤ 4 then .next { s with nfrag := v.setWidth 3 }
      else .next { s with err := s.err ||| 0x10#6 }) ∧
    regWrite 0x021#12 v s = (if v.toNat ≤ 64 then .next { s with totLen := v.setWidth 7 }
      else .next { s with err := s.err ||| 0x10#6 }) ∧
    regWrite 0x001#12 v s = .next { s with status := v.setWidth 5 } ∧
    regWrite 0x002#12 v s = .next { s with err := v.setWidth 6 } ∧
    regWrite 0x004#12 v s = .next { s with ctrl := v.setWidth 1 } ∧
    regWrite 0x005#12 v s = .next { s with c16 := v.setWidth 16 } ∧
    regWrite 0x006#12 v s = .next { s with c8 := v.setWidth 8 } ∧
    regWrite 0x010#12 v s = .next { s with serialLo := v } ∧
    regWrite 0x011#12 v s = .next { s with serialHi := v } ∧
    regWrite 0x013#12 v s = .next { s with invAddr := v } ∧
    regWrite 0x014#12 v s = .next { s with dtuAddr := v } ∧
    regWrite 0x015#12 v s = .next { s with typeByte := v.setWidth 8 } ∧
    regWrite 0x016#12 v s = .next { s with frameId := v.setWidth 8 } ∧
    regWrite 0x017#12 v s = .next { s with epoch := v } ∧
    regWrite 0x018#12 v s = .next { s with value := v.setWidth 16 } ∧
    regWrite 0x019#12 v s = .next { s with modifier := v.setWidth 16 } ∧
    regWrite 0x024#12 v s = .next { s with fragId0 := v.setWidth 8 } ∧
    regWrite 0x025#12 v s = .next { s with fragId1 := v.setWidth 8 } ∧
    regWrite 0x026#12 v s = .next { s with fragId2 := v.setWidth 8 } ∧
    regWrite 0x027#12 v s = .next { s with fragId3 := v.setWidth 8 } ∧
    ∀ n, WritableByte n → s.buf.wf = true → ∃ t, regWrite n v s = .next t ∧
      t.buf.read n.toNat = v.setWidth 8 ∧ (∀ a, a ≠ n.toNat → t.buf.read a = s.buf.read a) ∧
      t = { s with buf := t.buf }

/-- R22, R71, R73: a register has one number and no alias, and a write to one register is seen at no other number (but
at ERR, where a refused write leaves its flag, and after a write to CMD). -/
def Obligations.NoTwoNumbersAlias : Prop :=
  (∀ (n m : RegNum) (r : Reg), regAt n = some r → regAt m = some r → n = m) ∧
  ∀ (n m : RegNum) (v : Word) (s t : State), n ≠ m → n ≠ 0x000#12 → m ≠ 0x002#12 →
    regWrite n v s = .next t → regRead m t = regRead m s

/-! ### Flags and results -/

/-- R24, R25, R220: a command other than SRESET clears no flag, and raises at most one bit in all of STATUS and ERR;
in STATUS only one of bits 0, 1 and 2. -/
def Obligations.CommandRaisesAtMostOneFlag : Prop :=
  ∀ (i : Instr) (s t : State), i ≠ .sreset → exec i s = .next t →
    (t.err = s.err ∧ (t.status = s.status ∨ t.status = s.status ||| 0x01#5 ∨
      t.status = s.status ||| 0x02#5 ∨ t.status = s.status ||| 0x04#5)) ∨
    (t.status = s.status ∧ (t.err = s.err ||| 0x01#6 ∨ t.err = s.err ||| 0x04#6 ∨
      t.err = s.err ||| 0x10#6 ∨ t.err = s.err ||| 0x20#6))

/-- R24, R25, R26, R32, R166: no command reads ERR, FAMILY, RESULT or a STATUS bit, but that FIELD reads timedOut.
Whatever stands in them a command other than SRESET raises the same flags, gives the same RESULT if it writes one (and
IDENT the same FAMILY), leaves what it does not write, and does the same to everything else. SRESET overwrites them. -/
def Obligations.NoCommandReadsFlagsOrResult : Prop :=
  ∀ (i : Instr) (s t : State), exec i s = .next t →
    (i = .sreset → ∀ (x : BitVec 5) (y : BitVec 6) (f : BitVec 2) (r : BitVec 32),
      exec i { s with status := x, err := y, family := f, result := r } = .next t) ∧
    (i ≠ .sreset → ∃ (d : BitVec 5) (e : BitVec 6), t.status = s.status ||| d ∧ t.err = s.err ||| e ∧
      ∀ (x : BitVec 5) (y : BitVec 6) (f : BitVec 2) (r : BitVec 32),
        ((∃ a b, i = .field a b) → x.getLsbD 3 = s.status.getLsbD 3) →
        exec i { s with status := x, err := y, family := f, result := r } = .next { t with
          status := x ||| d
          err := y ||| e
          family := if i = .ident then t.family else f
          result := if i.writesResult then t.result else r })

/-- R26: the commands that do not write RESULT. -/
def Obligations.ResultWrittenOnlyByItsCommands : Prop :=
  ∀ (i : Instr) (s t : State),
    (i = .nop ∨ i = .c16clr ∨ (∃ a, i = .c16upd a) ∨ i = .c8clr ∨ (∃ a, i = .c8upd a) ∨ i = .rstasm ∨
      i = .asmzero) → exec i s = .next t → t.result = s.result

/-- R29, R30: the streaming registers are read and written by their own four commands (and SRESET) alone: any
other command does the same whatever C16 and C8 hold, and leaves them. -/
def Obligations.StreamingRegistersApart : Prop :=
  ∀ (i : Instr) (s t : State) (x : BitVec 16) (y : BitVec 8),
    i ≠ .sreset → i ≠ .c16clr → (∀ a, i ≠ .c16upd a) → i ≠ .c8clr → (∀ a, i ≠ .c8upd a) →
    exec i s = .next t →
    t.c16 = s.c16 ∧ t.c8 = s.c8 ∧
      exec i { s with c16 := x, c8 := y } = .next { t with c16 := x, c8 := y }

/-- R242: what the host set up is changed by no command but SRESET; the schema registers and FAMILY also by IDENT,
MODIFIER also by BLDLIM. -/
def Obligations.SetupHolds : Prop :=
  ∀ (i : Instr) (s t : State), i ≠ .sreset → exec i s = .next t →
    t.ctrl = s.ctrl ∧ t.serialLo = s.serialLo ∧ t.serialHi = s.serialHi ∧ t.invAddr = s.invAddr ∧
    t.dtuAddr = s.dtuAddr ∧ t.typeByte = s.typeByte ∧ t.frameId = s.frameId ∧ t.epoch = s.epoch ∧
    t.value = s.value ∧ ((∀ b, i ≠ .bldlim b) → t.modifier = s.modifier) ∧
    (i ≠ .ident → t.family = s.family ∧ t.nfrag = s.nfrag ∧ t.totLen = s.totLen ∧
      ∀ k, t.fragId k = s.fragId k)

/-- R47, R48: no command but SRESET changes RXF, and none but SRESET and the four build commands changes TXF or
TXFLEN. -/
def Obligations.FramesKeptByOtherCommands : Prop :=
  ∀ (i : Instr) (s t : State), s.Legal → i ≠ .sreset → exec i s = .next t →
    (∀ a, 0x080 ≤ a → a < 0x0A0 → t.buf.read a = s.buf.read a) ∧
    (i ≠ .pack → i ≠ .bldinfo → (∀ a b, i ≠ .bldcmd a b) → (∀ b, i ≠ .bldlim b) →
      t.txfLen = s.txfLen ∧ ∀ a, 0x060 ≤ a → a < 0x080 → t.buf.read a = s.buf.read a)

/-! ### Checksums -/

/-- R126, R128: the two clear commands set the streaming registers to their seeds; every other word with the opcode of
C16CLR is illegal. -/
def Obligations.ClearCommandsSeed : Prop :=
  EncodedAs .c16clr 0x00000010#32 ∧ EncodedAs .c8clr 0x00000012#32 ∧
  (∀ s : State, exec .c16clr s = .next { s with c16 := 0xFFFF#16 } ∧
    exec .c8clr s = .next { s with c8 := 0x00#8 }) ∧
  ∀ (w : Word) (s : State), w &&& 0xFF#32 = 0x10#32 → w ≠ 0x10#32 →
    execWord w s = .next { s with err := s.err ||| 0x02#6 }

/-- R120, R127: C16UPD folds one byte into C16, by the loop of R120. -/
def Obligations.C16updFoldsOneByte : Prop :=
  let pass : BitVec 16 → BitVec 16 :=
    fun c => if c &&& 1#16 = 1#16 then (c >>> 1) ^^^ 0xA001#16 else c >>> 1
  ∀ (a : Byte) (s : State),
    EncodedAs (.c16upd a) (0x00000011#32 ||| (a.setWidth 32 <<< 8)) ∧
    exec (.c16upd a) s = .next { s with
      c16 := pass (pass (pass (pass (pass (pass (pass (pass (s.c16 ^^^ a.setWidth 16)))))))) }

/-- R123, R129: C8UPD folds one byte into C8, by the loop of R123. -/
def Obligations.C8updFoldsOneByte : Prop :=
  let pass : BitVec 8 → BitVec 8 :=
    fun c => if c &&& 0x80#8 = 0x80#8 then (c <<< 1) ^^^ 0x01#8 else c <<< 1
  ∀ (a : Byte) (s : State),
    EncodedAs (.c8upd a) (0x00000013#32 ||| (a.setWidth 32 <<< 8)) ∧
    exec (.c8upd a) s = .next { s with
      c8 := pass (pass (pass (pass (pass (pass (pass (pass (s.c8 ^^^ a)))))))) }

/-- The laws of R125: one step of the CRC-8 is an exclusive or, `crc8Custom` is the exclusive or of the bytes, and
appending it gives 0. -/
def Obligations.Crc8IsXorOfBytes : Prop :=
  (∀ c b : Byte, crc8Step c b = c ^^^ b) ∧
  ∀ bs : List Byte, crc8Custom bs = bs.foldl (fun x b => x ^^^ b) 0#8 ∧
    crc8Custom (bs ++ [crc8Custom bs]) = 0#8

/-- A law of R122: appending the CRC-16 low byte first gives the residue 0. -/
def Obligations.Crc16ResidueLowByteFirst : Prop :=
  ∀ bs : List Byte,
    crc16Modbus (bs ++ [(crc16Modbus bs).setWidth 8, (crc16Modbus bs >>> 8).setWidth 8]) = 0#16

/-- The check values of R122 and R125 on "123456789". -/
def Obligations.ChecksumCheckValues : Prop :=
  crc16Modbus [0x31, 0x32, 0x33, 0x34, 0x35, 0x36, 0x37, 0x38, 0x39] = 0x4B37#16 ∧
    crc8Custom [0x31, 0x32, 0x33, 0x34, 0x35, 0x36, 0x37, 0x38, 0x39] = 0x31#8

/-- R29, R127, R105: C16CLR and one C16UPD per byte, performed one access a step (log 1), leave `crc16Modbus` of the
bytes in C16 and change nothing else. -/
def Obligations.StreamingEqualsFunction : Prop :=
  ∀ (bs : List Byte) (s : State),
    s.pending = asmCommand .c16clr :: bs.map (fun b => asmCommand (.c16upd b)) →
    Sys2Proof.core.run (bs.length + 1) s = .next { s with pending := [], c16 := crc16Modbus bs }

/-! ### The outbound frame -/

/-- R94, R96, R98, R141: the bytes of a frame, in their order. -/
def Obligations.FrameLayout : Prop :=
  ∀ (t : Byte) (inv dtu : BitVec 32) (f : Byte) (p : List Byte),
    let h : List Byte := [t, (inv >>> 24).setWidth 8, (inv >>> 16).setWidth 8, (inv >>> 8).setWidth 8,
      inv.setWidth 8, (dtu >>> 24).setWidth 8, (dtu >>> 16).setWidth 8, (dtu >>> 8).setWidth 8,
      dtu.setWidth 8, f]
    let k := crc16Modbus p
    let sealed := h ++ p ++ [(k >>> 8).setWidth 8, k.setWidth 8]
    frameBytes t inv dtu f p 0#1 = h ++ p ++ [crc8Custom (h ++ p)] ∧
    frameBytes t inv dtu f p 1#1 = sealed ++ [crc8Custom sealed]

/-- The laws of R142: the length, the trailing CRC-8, the exclusive or of all bytes, the place of the CRC-16. -/
def Obligations.FrameLaws : Prop :=
  ∀ (t : Byte) (inv dtu : BitVec 32) (f : Byte) (p : List Byte) (c : BitVec 1),
    let F := frameBytes t inv dtu f p c
    F.length = 10 + p.length + 2 * c.toNat + 1 ∧
    F.getD (F.length - 1) 0#8 = crc8Custom (F.take (F.length - 1)) ∧
    F.foldl (fun x b => x ^^^ b) 0#8 = 0#8 ∧
    (c = 1#1 → 256 * (F.getD (F.length - 3) 0#8).toNat + (F.getD (F.length - 2) 0#8).toNat =
      (crc16Modbus ((F.drop 10).take (F.length - 13))).toNat)

/-- R143, R144: PACK builds the frame of the host's payload, or refuses one over 32 bytes. -/
def Obligations.PackBuildsFrame : Prop :=
  EncodedAs .pack 0x00000020#32 ∧
  ∀ s : State, s.buf.wf = true →
    let n := s.txpLen.toNat
    let len := 10 + n + 2 * s.ctrl.toNat + 1
    let p := (List.range n).map fun k => s.buf.read (0x040 + k)
    (32 < len → exec .pack s = .next { s with err := s.err ||| 0x04#6, txfLen := 0#6, result := 0#32 }) ∧
    (len ≤ 32 → ∃ t, exec .pack s = .next t ∧
      (∀ k, k < len → t.buf.read (0x060 + k) =
        (frameBytes s.typeByte s.invAddr s.dtuAddr s.frameId p s.ctrl).getD k 0#8) ∧
      (∀ a, (a < 0x060 ∨ 0x060 + len ≤ a) → t.buf.read a = s.buf.read a) ∧
      t.txfLen.toNat = len ∧ t.result.toNat = len ∧
      t = { s with txfLen := t.txfLen, result := t.result, buf := t.buf })

/-- R145, R146: BLDINFO builds the telemetry request: the template with the time over it, most significant byte
first, for every value of the two parameters. -/
def Obligations.BldinfoBuildsRequest : Prop :=
  EncodedAs .bldinfo 0x00000021#32 ∧
  ∀ s : State, s.buf.wf = true →
    let o := Config.infoTimeOff.val
    let p := List.ofFn fun k : Fin 13 =>
      if o ≤ k.val ∧ k.val < o + 4 then (s.epoch >>> (8 * (3 - (k.val - o)))).setWidth 8
      else Config.infoTemplate k
    ∃ t, exec .bldinfo s = .next t ∧ BuildsFrame s t 0x15#8 p

/-- R147, R148: BLDCMD builds a device-control frame, with a value exactly when bit 0 of `b` is set. -/
def Obligations.BldcmdBuildsControl : Prop :=
  (∀ a : Byte, EncodedAs (.bldcmd a 0#8) (0x00000022#32 ||| (a.setWidth 32 <<< 8)) ∧
    EncodedAs (.bldcmd a 1#8) (0x00010022#32 ||| (a.setWidth 32 <<< 8))) ∧
  (∀ (w : Word) (s : State), w &&& 0xFF#32 = 0x22#32 → w &&& 0xFFFE0000#32 ≠ 0#32 →
    execWord w s = .next { s with err := s.err ||| 0x02#6 }) ∧
  ∀ (a b : Byte) (s : State), s.buf.wf = true →
    (b.getLsbD 0 = false → ∃ t, exec (.bldcmd a b) s = .next t ∧ BuildsFrame s t 0x51#8 [a]) ∧
    (b.getLsbD 0 = true → ∃ t, exec (.bldcmd a b) s = .next t ∧
      BuildsFrame s t 0x51#8 [a, (s.value >>> 8).setWidth 8, s.value.setWidth 8,
        (s.modifier >>> 8).setWidth 8, s.modifier.setWidth 8])

/-- R149, R150: BLDLIM writes MODIFIER from its two flags and builds the SET_POWER_LIMIT frame with it; a word with
its opcode and any other bit set is illegal. -/
def Obligations.BldlimBuildsLimit : Prop :=
  EncodedAs (.bldlim 0#8) 0x00000023#32 ∧ EncodedAs (.bldlim 1#8) 0x00010023#32 ∧
  EncodedAs (.bldlim 2#8) 0x00020023#32 ∧ EncodedAs (.bldlim 3#8) 0x00030023#32 ∧
  (∀ (w : Word) (s : State), w &&& 0xFF#32 = 0x23#32 → w &&& 0xFFFCFF00#32 ≠ 0#32 →
    execWord w s = .next { s with err := s.err ||| 0x02#6 }) ∧
  ∀ (b : Byte) (s : State), s.buf.wf = true →
    let m : BitVec 16 := BitVec.ofNat 16 (256 * (b.getLsbD 1).toNat + (b.getLsbD 0).toNat)
    ∃ t, exec (.bldlim b) s = .next t ∧ t.modifier = m ∧
      BuildsFrame { s with modifier := m } t 0x51#8
        [11#8, (s.value >>> 8).setWidth 8, s.value.setWidth 8, (m >>> 8).setWidth 8, m.setWidth 8]

/-- R144, R249: PACK may be repeated on the state it left, with the same result. -/
def Obligations.PackIsRepeatable : Prop :=
  ∀ s t : State, s.Legal → exec .pack s = .next t → exec .pack t = .next t

/-! ### Identity and parsing -/

/-- R160: `prefix4` is the number itself below 10000, and otherwise the quotient by the power of ten that leaves four
digits. -/
def Obligations.Prefix4IsLeadingDigits : Prop :=
  ∀ n : Nat, n < 2 ^ 64 →
    (n < 10000 → prefix4 n = n) ∧
    (10000 ≤ n → 1000 ≤ prefix4 n ∧ prefix4 n ≤ 9999 ∧ ∃ k, 1 ≤ k ∧ k ≤ 16 ∧ prefix4 n = n / 10 ^ k)

/-- The equivalence the spec derives at R161: a family's serials are those between its prefix times a power of ten and
the next prefix times the same power. -/
def Obligations.FamilyBySerialRange : Prop :=
  ∀ n : Nat, n < 2 ^ 64 →
    (familyOf n = some .family1 ↔ ∃ k, k ≤ 16 ∧ 1121 * 10 ^ k ≤ n ∧ n < 1122 * 10 ^ k) ∧
    (familyOf n = some .family2 ↔ ∃ k, k ≤ 16 ∧ 1141 * 10 ^ k ≤ n ∧ n < 1142 * 10 ^ k) ∧
    (familyOf n = some .family3 ↔ ∃ k, k ≤ 16 ∧ 1161 * 10 ^ k ≤ n ∧ n < 1162 * 10 ^ k)

/-- R161, R162, R211: IDENT loads the schema of the serial's family, or flags E_FAMILY and leaves the schema. -/
def Obligations.IdentLoadsSchema : Prop :=
  EncodedAs .ident 0x00000030#32 ∧
  ∀ s : State,
    let d := prefix4 (s.serialHi.toNat * 2 ^ 32 + s.serialLo.toNat)
    (d = 1121 → exec .ident s = .next { s with
      family := 1#2, result := 1#32, totLen := 32#7, nfrag := 2#3,
      fragId0 := Config.fragIds .family1 0, fragId1 := Config.fragIds .family1 1,
      fragId2 := 0x00#8, fragId3 := 0x00#8 }) ∧
    (d = 1141 → exec .ident s = .next { s with
      family := 2#2, result := 2#32, totLen := 44#7, nfrag := 3#3,
      fragId0 := Config.fragIds .family2 0, fragId1 := Config.fragIds .family2 1,
      fragId2 := Config.fragIds .family2 2, fragId3 := 0x00#8 }) ∧
    (d = 1161 → exec .ident s = .next { s with
      family := 3#2, result := 3#32, totLen := 64#7, nfrag := 4#3,
      fragId0 := Config.fragIds .family3 0, fragId1 := Config.fragIds .family3 1,
      fragId2 := Config.fragIds .family3 2, fragId3 := Config.fragIds .family3 3 }) ∧
    (d ≠ 1121 → d ≠ 1141 → d ≠ 1161 → exec .ident s = .next { s with
      family := 0#2, result := 0#32, err := s.err ||| 0x01#6 })

/-- R163, R164, R166: FIELD reads the big-endian value of `b` bytes of ASM at offset `a`, keeps its low 16 bits, and
gives 0 when timedOut is set; a width or a range that is not legal flags E_RANGE. -/
def Obligations.FieldReadsMaskedBigEndian : Prop :=
  ∀ (a b : Byte) (s : State),
    EncodedAs (.field a b) (0x00000031#32 ||| (a.setWidth 32 <<< 8) ||| (b.setWidth 32 <<< 16)) ∧
    ((b.toNat = 0 ∨ 4 < b.toNat ∨ s.asmLen.toNat < a.toNat + b.toNat) →
      exec (.field a b) s = .next { s with result := 0#32, err := s.err ||| 0x10#6 }) ∧
    (1 ≤ b.toNat → b.toNat ≤ 4 → a.toNat + b.toNat ≤ s.asmLen.toNat →
      exec (.field a b) s = .next { s with
        result := if s.status.getLsbD 3 then 0#32 else BitVec.ofNat 32
          ((List.range b.toNat).foldl (fun v k => 256 * v + (s.buf.read (0x0C0 + a.toNat + k)).toNat) 0
            % 65536) })

/-! ### Reassembly -/

/-- R182: RSTASM awaits every schema position and forgets every collected one. -/
def Obligations.RstasmAwaitsEveryPosition : Prop :=
  EncodedAs .rstasm 0x00000040#32 ∧
  ∀ s : State, ∃ t, exec .rstasm s = .next t ∧
    (∀ i : Fin 4, t.outst.getLsbD i.val = decide (i.val < s.nfrag.toNat)) ∧ t.coll = 0#4 ∧
    t = { s with outst := t.outst, coll := t.coll }

/-- R101, R181, R184: ABSORB drops a frame whose CRC-8 does not match and flags it; a good frame's payload goes to the
slot of every schema position that expects its id, and to no other. -/
def Obligations.AbsorbStoresGoodFragment : Prop :=
  EncodedAs .absorb 0x00000041#32 ∧
  ∀ s : State, s.buf.wf = true →
    let r : Nat → Byte := fun k => s.buf.read (0x080 + k)
    let sum := crc8Custom ((List.range 26).map r)
    (sum ≠ r 26 → exec .absorb s = .next { s with status := s.status ||| 0x02#5, result := 0#32 }) ∧
    (sum = r 26 → ∃ t, exec .absorb s = .next t ∧
      (∀ i : Fin 4,
        if i.val < s.nfrag.toNat ∧ s.fragId i = r 9 then
          t.coll.getLsbD i.val = true ∧ t.outst.getLsbD i.val = false ∧
            ∀ j, j < 16 → t.buf.read (0x100 + 16 * i.val + j) = r (10 + j)
        else
          t.coll.getLsbD i.val = s.coll.getLsbD i.val ∧ t.outst.getLsbD i.val = s.outst.getLsbD i.val ∧
            ∀ j, j < 16 → t.buf.read (0x100 + 16 * i.val + j) = s.buf.read (0x100 + 16 * i.val + j)) ∧
      (∀ a, (a < 0x100 ∨ 0x140 ≤ a) → t.buf.read a = s.buf.read a) ∧
      t.result = (if t.outst = 0#4 then 1#32 else 0#32) ∧
      t = { s with coll := t.coll, outst := t.outst, buf := t.buf, result := t.result })

/-- The law of R185: frames with different ids, absorbed in any order, good and bad, leave the same OUTST, COLL and
slots; good frames that cover the schema satisfy it. -/
def Obligations.AbsorbOrderDoesNotMatter : Prop :=
  ∀ (s : State) (fs gs : List (List Byte)), s.buf.wf = true → fs.Perm gs →
    (∀ r ∈ fs, r.length = 32) → (fs.map fun r => r.getD 9 0#8).Nodup →
    ∃ t u, absorbFrames fs s = .next t ∧ absorbFrames gs s = .next u ∧
      t.outst = u.outst ∧ t.coll = u.coll ∧
      (∀ a, 0x100 ≤ a → a < 0x140 → t.buf.read a = u.buf.read a) ∧
      (s.Partitioned → (∀ r ∈ fs, crc8Custom (r.take 26) = r.getD 26 0#8) →
        (∀ i : Fin 4, i.val < s.nfrag.toNat → s.fragId i ∈ fs.map fun r => r.getD 9 0#8) → t.outst = 0#4)

/-- R183 and a law of R185: OUTST and COLL are changed by RSTASM, ABSORB, VERIFY and SRESET alone; ABSORB only clears
bits of OUTST and only sets bits of COLL; the slots are changed by ABSORB and SRESET alone. -/
def Obligations.ReassemblyChangesOnlyWhere : Prop :=
  ∀ (i : Instr) (s t : State), s.Legal → exec i s = .next t →
    (i ≠ .rstasm → i ≠ .absorb → i ≠ .verify → i ≠ .sreset → t.outst = s.outst ∧ t.coll = s.coll) ∧
    (i = .absorb → ∀ k, (t.outst.getLsbD k = true → s.outst.getLsbD k = true) ∧
      (s.coll.getLsbD k = true → t.coll.getLsbD k = true)) ∧
    (i ≠ .absorb → i ≠ .sreset → ∀ a, 0x100 ≤ a → a < 0x140 → t.buf.read a = s.buf.read a)

/-- R186, R188: ASSEMBLE writes the collected payloads in schema order, cut to the length, and says nothing of the
bytes of positions not collected. -/
def Obligations.AssembleConcatenatesCollected : Prop :=
  EncodedAs .assemble 0x00000042#32 ∧
  ∀ s : State, s.buf.wf = true →
    let len := min (16 * s.nfrag.toNat) s.totLen.toNat
    ∃ t, exec .assemble s = .next t ∧
      (∀ k, k < len → s.coll.getLsbD (k / 16) = true →
        t.buf.read (0x0C0 + k) = s.buf.read (0x100 + 16 * (k / 16) + k % 16)) ∧
      (∀ a, (a < 0x0C0 ∨ 0x0C0 + len ≤ a) → t.buf.read a = s.buf.read a) ∧
      t.asmLen.toNat = len ∧ t.result.toNat = len ∧
      t.err = (if s.outst = 0#4 then s.err else s.err ||| 0x20#6) ∧
      t = { s with asmLen := t.asmLen, result := t.result, err := t.err, buf := t.buf, draws := t.draws }

/-- R12, R188 over the model's count of draws (log 4): each byte of a position not collected is a draw of its own, never
one already made and never one made for another byte. -/
def Obligations.UnspecifiedBytesAreFreshDraws : Prop :=
  ∀ s t : State, s.buf.wf = true → exec .assemble s = .next t →
    ∃ d : Nat → Nat, ∀ k, k < t.asmLen.toNat → s.coll.getLsbD (k / 16) = false →
      t.buf.read (0x0C0 + k) = Config.unspecByte (d k) ∧ s.draws ≤ d k ∧ d k < t.draws ∧
      ∀ j, j < k → s.coll.getLsbD (j / 16) = false → d j < d k

/-- R188, corner cases: with nothing awaited, a second ASSEMBLE leaves the state as the first left it. -/
def Obligations.AssembleIsIdempotent : Prop :=
  ∀ s t : State, s.Legal → s.Partitioned → s.outst = 0#4 → exec .assemble s = .next t →
    exec .assemble t = .next t

/-- R189, R190: VERIFY compares the CRC-16 of the data with the stored two bytes; on a mismatch it resets the
reassembly state. -/
def Obligations.VerifyChecksAssembledBuffer : Prop :=
  EncodedAs .verify 0x00000043#32 ∧
  ∀ s : State,
    let n := s.asmLen.toNat
    let b : Nat → Byte := fun k => s.buf.read (0x0C0 + k)
    let ok := 2 ≤ n ∧ (crc16Modbus ((List.range (n - 2)).map b)).toNat =
      256 * (b (n - 2)).toNat + (b (n - 1)).toNat
    (ok → exec .verify s = .next { s with status := s.status ||| 0x01#5, result := 1#32 }) ∧
    (¬ok → exec .verify s = .next { s with
      status := s.status ||| 0x04#5, result := 0#32,
      outst := BitVec.ofNat 4 (2 ^ s.nfrag.toNat - 1), coll := 0#4 })

/-- R192: ASMZERO zeroes the assembled buffer over the schema length. -/
def Obligations.AsmzeroZeroesSchemaLength : Prop :=
  EncodedAs .asmzero 0x00000044#32 ∧
  ∀ s : State, s.buf.wf = true → ∃ t, exec .asmzero s = .next t ∧
    (∀ k, k < s.totLen.toNat → t.buf.read (0x0C0 + k) = 0x00#8) ∧
    (∀ a, (a < 0x0C0 ∨ 0x0C0 + s.totLen.toNat ≤ a) → t.buf.read a = s.buf.read a) ∧
    t = { s with asmLen := s.totLen, buf := t.buf }

/-! ### Housekeeping, reset and the invariants -/

/-- R201: NOP changes nothing. -/
def Obligations.NopChangesNothing : Prop :=
  EncodedAs .nop 0x00000000#32 ∧ ∀ s : State, exec .nop s = .next s

/-- R54, R202: SRESET puts every register and every buffer byte to its reset value, which is the state after reset. The
model's own three fields (log 1, log 3, log 4) are not the block's and stay. -/
def Obligations.SresetRestoresResetState : Prop :=
  EncodedAs .sreset 0x00000001#32 ∧
  ∀ s : State, ∃ t, exec .sreset s = .next t ∧
    t.status = 0 ∧ t.err = 0 ∧ t.result = 0 ∧ t.ctrl = 1 ∧ t.c16 = 0xFFFF ∧ t.c8 = 0 ∧ t.serialLo = 0 ∧
    t.serialHi = 0 ∧ t.family = 0 ∧ t.invAddr = 0 ∧ t.dtuAddr = 0 ∧ t.typeByte = 0 ∧ t.frameId = 0 ∧
    t.epoch = 0 ∧ t.value = 0 ∧ t.modifier = 0 ∧ t.txpLen = 0 ∧ t.txfLen = 0 ∧ t.nfrag = 0 ∧
    t.totLen = 0 ∧ (∀ i, t.fragId i = 0) ∧ t.outst = 0 ∧ t.coll = 0 ∧ t.asmLen = 0 ∧
    (∀ a, t.buf.read a = 0) ∧
    t = { Sys2Proof.core.reset with draws := s.draws, readData := s.readData, pending := s.pending }

/-- R54, R240: the reset state, which SRESET gives too (but for the model's own three fields, log 1, log 3, log 4). -/
def Obligations.ResetValues : Prop :=
  let r := Sys2Proof.core.reset
  r.status = 0 ∧ r.err = 0 ∧ r.result = 0 ∧ r.ctrl = 1 ∧ r.c16 = 0xFFFF ∧ r.c8 = 0 ∧ r.serialLo = 0 ∧
    r.serialHi = 0 ∧ r.family = 0 ∧ r.invAddr = 0 ∧ r.dtuAddr = 0 ∧ r.typeByte = 0 ∧ r.frameId = 0 ∧
    r.epoch = 0 ∧ r.value = 0 ∧ r.modifier = 0 ∧ r.txpLen = 0 ∧ r.txfLen = 0 ∧ r.nfrag = 0 ∧
    r.totLen = 0 ∧ (∀ i, r.fragId i = 0) ∧ r.outst = 0 ∧ r.coll = 0 ∧ r.asmLen = 0 ∧
    (∀ a, r.buf.read a = 0) ∧
    ∀ s : State, exec .sreset s =
      .next { r with draws := s.draws, readData := s.readData, pending := s.pending }

/-- What R241 derives of the fresh block: nothing awaited, an empty assembly, a mismatch, every FIELD out of range, and
a good frame satisfies the empty schema. -/
def Obligations.FreshBlockWorksAtOnce : Prop :=
  (∃ t, exec .rstasm State.reset = .next t ∧ t.outst = 0) ∧
  (∃ t, exec .assemble State.reset = .next t ∧ t.asmLen = 0 ∧ t.err = 0) ∧
  (∃ t, exec .verify State.reset = .next t ∧ t.status = 0x04#5 ∧ t.result = 0) ∧
  (∀ a b, ∃ t, exec (.field a b) State.reset = .next t ∧ t.err = 0x10#6 ∧ t.result = 0) ∧
  ∀ r : List Byte, r.length = 32 → crc8Custom (r.take 26) = r.getD 26 0#8 →
    ∃ t, exec .absorb (State.reset.loadFrame r) = .next t ∧ t.result = 1

/-- The model's invariant holds at reset: the bounds of R53, the canonical form of the buffers (log 6), and the partition
of R53. -/
def Obligations.ResetStateIsLegal : Prop :=
  State.reset.Legal ∧ State.reset.Partitioned

/-- The bounds of R53 ("hold always, from reset on, whatever the host writes"), and the canonical form of the buffers,
which hold bytes at buffer registers only (R71, log 6): every step keeps them. -/
def Obligations.StepKeepsLegalState : Prop :=
  ∀ s t : State, s.Legal → step s = .next t → t.Legal

/-- The partition of R53: a step that leaves NFRAG as it was keeps it, and RSTASM establishes it from every state. -/
def Obligations.StepKeepsPartition : Prop :=
  (∀ s t : State, s.Partitioned → step s = .next t → t.nfrag = s.nfrag → t.Partitioned) ∧
  ∀ s t : State, exec .rstasm s = .next t → t.Partitioned

/-! ### A whole attempt -/

/-- The last law of R185, and R184 on a retry: whatever is absorbed, good, bad, of an unknown id or again, each schema
position ends with the payload of the last good frame of its id; a position without one, and all else but RXF, RESULT
and the flag of a bad frame, stays. -/
def Obligations.LastGoodFragmentWins : Prop :=
  ∀ (s : State) (fs : List (List Byte)), s.buf.wf = true → (∀ r ∈ fs, r.length = 32) →
    ∃ t, absorbFrames fs s = .next t ∧
      (∀ i : Fin 4,
        let hits := fs.filter fun r =>
          crc8Custom (r.take 26) = r.getD 26 0#8 ∧ i.val < s.nfrag.toNat ∧ s.fragId i = r.getD 9 0#8
        (∀ r, hits.getLast? = some r → t.coll.getLsbD i.val = true ∧ t.outst.getLsbD i.val = false ∧
          ∀ j, j < 16 → t.buf.read (0x100 + 16 * i.val + j) = r.getD (10 + j) 0#8) ∧
        (hits = [] → t.coll.getLsbD i.val = s.coll.getLsbD i.val ∧
          t.outst.getLsbD i.val = s.outst.getLsbD i.val ∧
          ∀ j, j < 16 → t.buf.read (0x100 + 16 * i.val + j) = s.buf.read (0x100 + 16 * i.val + j))) ∧
      (∀ a, (a < 0x080 ∨ 0x0A0 ≤ a) → (a < 0x100 ∨ 0x140 ≤ a) → t.buf.read a = s.buf.read a) ∧
      t.status = (if ∀ r ∈ fs, crc8Custom (r.take 26) = r.getD 26 0#8 then s.status else s.status ||| 0x02#5) ∧
      t = { s with coll := t.coll, outst := t.outst, buf := t.buf, result := t.result, status := t.status }

/-- The first law of R185: after RSTASM, good frames with one frame per schema id, the ids pairwise different, give
RESULT 1 and OUTST 0 at the last of them, in whatever order they come, and RESULT 0 at every one before. -/
def Obligations.ResultTellsLastFragment : Prop :=
  ∀ (s₀ s : State) (fs : List (List Byte)), s₀.buf.wf = true → exec .rstasm s₀ = .next s →
    (∀ r ∈ fs, r.length = 32 ∧ crc8Custom (r.take 26) = r.getD 26 0#8) →
    (fs.map fun r => r.getD 9 0#8).Nodup →
    (fs.map fun r => r.getD 9 0#8).Perm
      (((List.finRange 4).filter fun i => i.val < s.nfrag.toNat).map s.fragId) →
    ∀ k, 1 ≤ k → k ≤ fs.length → ∃ t, absorbFrames (fs.take k) s = .next t ∧
      t.result = (if k = fs.length then 1#32 else 0#32) ∧ (t.outst = 0#4 ↔ k = fs.length)
end

