-- ==== Sys2Proof/Laws/Memory.lean ====
section
/-! SUPPORT. The laws of the byte buffers: a read after a write, what a write leaves alone, and that every
write keeps the canonical form. -/

namespace Sys2Proof.Machine

/-! ### Reading -/

@[simp] theorem Memory.read_nil (a : Nat) : Memory.read [] a = Memory.unlisted := rfl

theorem Memory.read_cons (b : Nat) (w : Byte) (m : Memory) (a : Nat) :
    Memory.read ((b, w) :: m) a = if b = a then w else m.read a := rfl

theorem Memory.wf_cons {b : Nat} {w : Byte} {m : Memory} :
    Memory.wf ((b, w) :: m) = true ↔
      w ≠ Memory.unlisted ∧ (∀ c ∈ m, b < c.1) ∧ m.wf = true := by
  simp [Memory.wf, and_assoc]

/-- A number below every listed one reads as unlisted. -/
theorem Memory.read_of_lt {m : Memory} {a : Nat} (h : ∀ c ∈ m, a < c.1) :
    m.read a = Memory.unlisted := by
  induction m with
  | nil => rfl
  | cons c m ih =>
    obtain ⟨b, w⟩ := c
    have hb : a < b := h (b, w) (by simp)
    rw [Memory.read_cons, if_neg (by omega)]
    exact ih fun c hc => h c (by simp [hc])

/-- Every number a write lists was listed before or is the number written. -/
theorem Memory.mem_write {m : Memory} {a : Nat} {v : Byte} {c : Host.Cell} (h : c ∈ m.write a v) :
    c = (a, v) ∨ c ∈ m := by
  induction m with
  | nil =>
    simp only [Memory.write] at h
    split at h <;> simp_all
  | cons d m ih =>
    obtain ⟨b, w⟩ := d
    simp only [Memory.write] at h
    split at h
    · split at h <;> simp_all
    · split at h
      · split at h
        · exact .inr (List.mem_cons_of_mem _ h)
        · rcases List.mem_cons.mp h with h | h
          · simp_all
          · exact .inr (List.mem_cons_of_mem _ h)
      · rcases List.mem_cons.mp h with h | h
        · simp [h]
        · rcases ih h with h | h <;> simp [h]

/-- A write keeps the canonical form. -/
theorem Memory.wf_write {m : Memory} (h : m.wf = true) (a : Nat) (v : Byte) :
    (m.write a v).wf = true := by
  induction m with
  | nil =>
    simp only [Memory.write]
    split
    · rfl
    · simp_all [Memory.wf]
  | cons d m ih =>
    obtain ⟨b, w⟩ := d
    obtain ⟨hw, hlt, hm⟩ := Memory.wf_cons.mp h
    simp only [Memory.write]
    split
    · split
      · exact h
      · refine Memory.wf_cons.mpr ⟨by assumption, ?_, h⟩
        intro c hc
        rcases List.mem_cons.mp hc with hc | hc
        · subst hc; assumption
        · have := hlt c hc; omega
    · split
      · split
        · exact hm
        · refine Memory.wf_cons.mpr ⟨by assumption, ?_, hm⟩
          intro c hc
          have := hlt c hc
          omega
      · refine Memory.wf_cons.mpr ⟨hw, ?_, ih hm⟩
        intro c hc
        rcases Memory.mem_write hc with hc | hc
        · subst hc; simp only; omega
        · exact hlt c hc

/-- A write leaves every other number alone. -/
theorem Memory.read_write_of_ne (m : Memory) {a c : Nat} (v : Byte) (h : c ≠ a) :
    (m.write a v).read c = m.read c := by
  induction m with
  | nil =>
    simp only [Memory.write]
    split
    · rfl
    · rw [Memory.read_cons, if_neg (by omega)]
  | cons d m ih =>
    obtain ⟨b, w⟩ := d
    simp only [Memory.write]
    split
    · split
      · rfl
      · rw [Memory.read_cons, if_neg (by omega)]
    · split
      · subst b
        split
        · rw [Memory.read_cons, if_neg (by omega)]
        · rw [Memory.read_cons, Memory.read_cons, if_neg (by omega), if_neg (by omega)]
      · rw [Memory.read_cons, Memory.read_cons, ih]

/-- In a canonical memory a read gives back what was written. -/
theorem Memory.read_write_self {m : Memory} (h : m.wf = true) (a : Nat) (v : Byte) :
    (m.write a v).read a = v := by
  induction m with
  | nil =>
    simp only [Memory.write]
    split
    · simp_all
    · rw [Memory.read_cons, if_pos rfl]
  | cons d m ih =>
    obtain ⟨b, w⟩ := d
    obtain ⟨_, hlt, hm⟩ := Memory.wf_cons.mp h
    simp only [Memory.write]
    split
    · rename_i hab
      split
      · rename_i hv
        rw [hv]
        refine Memory.read_of_lt fun c hc => ?_
        rcases List.mem_cons.mp hc with hc | hc
        · subst hc; exact hab
        · have := hlt c hc; omega
      · rw [Memory.read_cons, if_pos rfl]
    · split
      · subst b
        split
        · rename_i hv
          rw [hv]
          exact Memory.read_of_lt hlt
        · rw [Memory.read_cons, if_pos rfl]
      · rw [Memory.read_cons, if_neg (by omega)]
        exact ih hm

theorem Memory.read_write {m : Memory} (h : m.wf = true) (a c : Nat) (v : Byte) :
    (m.write a v).read c = if c = a then v else m.read c := by
  split
  · subst c; exact Memory.read_write_self h a v
  · exact Memory.read_write_of_ne m v (by assumption)

/-! ### Runs of bytes -/

@[simp] theorem Memory.writeBytes_nil (m : Memory) (a : Nat) : m.writeBytes a [] = m := rfl

theorem Memory.writeBytes_cons (m : Memory) (a : Nat) (v : Byte) (vs : List Byte) :
    m.writeBytes a (v :: vs) = (m.write a v).writeBytes (a + 1) vs := rfl

theorem Memory.wf_writeBytes {m : Memory} (h : m.wf = true) (a : Nat) (bs : List Byte) :
    (m.writeBytes a bs).wf = true := by
  induction bs generalizing m a with
  | nil => exact h
  | cons v vs ih => exact ih (Memory.wf_write h a v) (a + 1)

/-- Storing a run of bytes leaves every number outside the run alone. -/
theorem Memory.read_writeBytes_outside (m : Memory) {a c : Nat} (bs : List Byte)
    (h : c < a ∨ a + bs.length ≤ c) : (m.writeBytes a bs).read c = m.read c := by
  induction bs generalizing m a with
  | nil => rfl
  | cons v vs ih =>
    rw [Memory.writeBytes_cons, ih _ (by simp at h; omega)]
    exact Memory.read_write_of_ne m v (by simp at h; omega)

/-- In a canonical memory the stored run reads back byte by byte. -/
theorem Memory.read_writeBytes_inside {m : Memory} (h : m.wf = true) {a c : Nat} {bs : List Byte}
    (h1 : a ≤ c) (h2 : c < a + bs.length) : (m.writeBytes a bs).read c = bs.getD (c - a) 0#8 := by
  induction bs generalizing m a with
  | nil => simp at h2; omega
  | cons v vs ih =>
    rw [Memory.writeBytes_cons]
    by_cases hc : c = a
    · subst hc
      rw [Memory.read_writeBytes_outside _ _ (by omega), Memory.read_write_self h]
      simp
    · rw [ih (Memory.wf_write h a v) (by omega) (by simp at h2; omega)]
      obtain ⟨k, rfl⟩ : ∃ k, c = a + 1 + k := ⟨c - (a + 1), by omega⟩
      rw [show a + 1 + k - (a + 1) = k by omega, show a + 1 + k - a = k + 1 by omega]
      rfl

theorem Memory.read_writeBytes {m : Memory} (h : m.wf = true) (a c : Nat) (bs : List Byte) :
    (m.writeBytes a bs).read c =
      if a ≤ c ∧ c < a + bs.length then bs.getD (c - a) 0#8 else m.read c := by
  split
  · rename_i hc; exact Memory.read_writeBytes_inside h hc.1 hc.2
  · exact Memory.read_writeBytes_outside m bs (by omega)

@[simp] theorem Memory.readBytes_length (m : Memory) (a n : Nat) : (m.readBytes a n).length = n := by
  simp [Memory.readBytes]

theorem Memory.readBytes_getD (m : Memory) (a : Nat) {n k : Nat} (h : k < n) (d : Byte) :
    (m.readBytes a n).getD k d = m.read (a + k) := by
  simp [Memory.readBytes, List.getD_eq_getElem?_getD, h]

/-- Two memories that read alike over a range give the same bytes. -/
theorem Memory.readBytes_congr {m m' : Memory} {a n : Nat}
    (h : ∀ k, k < n → m.read (a + k) = m'.read (a + k)) : m.readBytes a n = m'.readBytes a n := by
  simp only [Memory.readBytes]
  exact List.map_congr_left fun k hk => h k (List.mem_range.mp hk)

/-! ### Equal memories are equal data -/

theorem Memory.eq_of_read_eq {m m' : Memory} (h : m.wf = true) (h' : m'.wf = true)
    (hr : ∀ a, m.read a = m'.read a) : m = m' := by
  induction m generalizing m' with
  | nil =>
    cases m' with
    | nil => rfl
    | cons d _ =>
      obtain ⟨b, w⟩ := d
      have := hr b
      rw [Memory.read_cons, if_pos rfl] at this
      exact absurd this.symm (Memory.wf_cons.mp h').1
  | cons d m ih =>
    obtain ⟨b, w⟩ := d
    obtain ⟨hw, hlt, hm⟩ := Memory.wf_cons.mp h
    cases m' with
    | nil =>
      have := hr b
      rw [Memory.read_cons, if_pos rfl] at this
      exact absurd this hw
    | cons d' m' =>
      obtain ⟨b', w'⟩ := d'
      obtain ⟨hw', hlt', hm'⟩ := Memory.wf_cons.mp h'
      have hb : b = b' := by
        rcases Nat.lt_trichotomy b b' with hbb | hbb | hbb
        · have hx := hr b
          rw [Memory.read_cons, if_pos rfl, Memory.read_cons, if_neg (by omega),
            Memory.read_of_lt fun c hc => by have := hlt' c hc; omega] at hx
          exact absurd hx hw
        · exact hbb
        · have hx := hr b'
          rw [Memory.read_cons, if_neg (by omega), Memory.read_cons, if_pos rfl,
            Memory.read_of_lt fun c hc => by have := hlt c hc; omega] at hx
          exact absurd hx.symm hw'
      subst hb
      have hx := hr b
      rw [Memory.read_cons, if_pos rfl, Memory.read_cons, if_pos rfl] at hx
      subst hx
      rw [ih hm hm' fun a => ?_]
      have ha := hr a
      rw [Memory.read_cons, Memory.read_cons] at ha
      split at ha
      · subst a
        rw [Memory.read_of_lt hlt, Memory.read_of_lt hlt']
      · exact ha

/-! ### Only buffer registers hold bytes -/

theorem Memory.onlyBuffers_write {m : Memory} (h : m.onlyBuffers = true) {a : Nat} (v : Byte)
    (ha : isBufferNumber a = true) : (m.write a v).onlyBuffers = true := by
  simp only [Memory.onlyBuffers, List.all_eq_true] at h ⊢
  intro c hc
  rcases Memory.mem_write hc with hc | hc
  · subst hc; exact ha
  · exact h c hc

theorem Memory.onlyBuffers_writeBytes {m : Memory} (h : m.onlyBuffers = true) {a : Nat}
    {bs : List Byte} (ha : ∀ k, k < bs.length → isBufferNumber (a + k) = true) :
    (m.writeBytes a bs).onlyBuffers = true := by
  induction bs generalizing m a with
  | nil => exact h
  | cons v vs ih =>
    refine ih (Memory.onlyBuffers_write h v (ha 0 (by simp))) fun k hk => ?_
    have := ha (k + 1) (by simp; omega)
    rwa [show a + 1 + k = a + (k + 1) by omega]

/-- The reset memory lists nothing and is canonical. -/
theorem Memory.wf_nil : Memory.wf [] = true := rfl

end Sys2Proof.Machine
end

