-- ==== Sys2Proof/Laws/State.lean ====
section
/-! SUPPORT. One lemma per field per update of the state, each true by `rfl`: no later proof unfolds a record
update. -/

namespace Sys2Proof.Machine

/-! ### flagStatus. R10: only STATUS changes, by one bit. -/

@[simp] theorem State.flagStatus_status (f : StatusFlag) (s : State) : (s.flagStatus f).status = setBit s.status f.bit := rfl
@[simp] theorem State.flagStatus_err (f : StatusFlag) (s : State) : (s.flagStatus f).err = s.err := rfl
@[simp] theorem State.flagStatus_result (f : StatusFlag) (s : State) : (s.flagStatus f).result = s.result := rfl
@[simp] theorem State.flagStatus_ctrl (f : StatusFlag) (s : State) : (s.flagStatus f).ctrl = s.ctrl := rfl
@[simp] theorem State.flagStatus_c16 (f : StatusFlag) (s : State) : (s.flagStatus f).c16 = s.c16 := rfl
@[simp] theorem State.flagStatus_c8 (f : StatusFlag) (s : State) : (s.flagStatus f).c8 = s.c8 := rfl
@[simp] theorem State.flagStatus_serialLo (f : StatusFlag) (s : State) : (s.flagStatus f).serialLo = s.serialLo := rfl
@[simp] theorem State.flagStatus_serialHi (f : StatusFlag) (s : State) : (s.flagStatus f).serialHi = s.serialHi := rfl
@[simp] theorem State.flagStatus_family (f : StatusFlag) (s : State) : (s.flagStatus f).family = s.family := rfl
@[simp] theorem State.flagStatus_invAddr (f : StatusFlag) (s : State) : (s.flagStatus f).invAddr = s.invAddr := rfl
@[simp] theorem State.flagStatus_dtuAddr (f : StatusFlag) (s : State) : (s.flagStatus f).dtuAddr = s.dtuAddr := rfl
@[simp] theorem State.flagStatus_typeByte (f : StatusFlag) (s : State) : (s.flagStatus f).typeByte = s.typeByte := rfl
@[simp] theorem State.flagStatus_frameId (f : StatusFlag) (s : State) : (s.flagStatus f).frameId = s.frameId := rfl
@[simp] theorem State.flagStatus_epoch (f : StatusFlag) (s : State) : (s.flagStatus f).epoch = s.epoch := rfl
@[simp] theorem State.flagStatus_value (f : StatusFlag) (s : State) : (s.flagStatus f).value = s.value := rfl
@[simp] theorem State.flagStatus_modifier (f : StatusFlag) (s : State) : (s.flagStatus f).modifier = s.modifier := rfl
@[simp] theorem State.flagStatus_txpLen (f : StatusFlag) (s : State) : (s.flagStatus f).txpLen = s.txpLen := rfl
@[simp] theorem State.flagStatus_txfLen (f : StatusFlag) (s : State) : (s.flagStatus f).txfLen = s.txfLen := rfl
@[simp] theorem State.flagStatus_nfrag (f : StatusFlag) (s : State) : (s.flagStatus f).nfrag = s.nfrag := rfl
@[simp] theorem State.flagStatus_totLen (f : StatusFlag) (s : State) : (s.flagStatus f).totLen = s.totLen := rfl
@[simp] theorem State.flagStatus_fragId0 (f : StatusFlag) (s : State) : (s.flagStatus f).fragId0 = s.fragId0 := rfl
@[simp] theorem State.flagStatus_fragId1 (f : StatusFlag) (s : State) : (s.flagStatus f).fragId1 = s.fragId1 := rfl
@[simp] theorem State.flagStatus_fragId2 (f : StatusFlag) (s : State) : (s.flagStatus f).fragId2 = s.fragId2 := rfl
@[simp] theorem State.flagStatus_fragId3 (f : StatusFlag) (s : State) : (s.flagStatus f).fragId3 = s.fragId3 := rfl
@[simp] theorem State.flagStatus_outst (f : StatusFlag) (s : State) : (s.flagStatus f).outst = s.outst := rfl
@[simp] theorem State.flagStatus_coll (f : StatusFlag) (s : State) : (s.flagStatus f).coll = s.coll := rfl
@[simp] theorem State.flagStatus_asmLen (f : StatusFlag) (s : State) : (s.flagStatus f).asmLen = s.asmLen := rfl
@[simp] theorem State.flagStatus_buf (f : StatusFlag) (s : State) : (s.flagStatus f).buf = s.buf := rfl
@[simp] theorem State.flagStatus_draws (f : StatusFlag) (s : State) : (s.flagStatus f).draws = s.draws := rfl
@[simp] theorem State.flagStatus_readData (f : StatusFlag) (s : State) : (s.flagStatus f).readData = s.readData := rfl
@[simp] theorem State.flagStatus_pending (f : StatusFlag) (s : State) : (s.flagStatus f).pending = s.pending := rfl

/-! ### flagErr. R10: only ERR changes, by one bit. -/

@[simp] theorem State.flagErr_status (f : ErrFlag) (s : State) : (s.flagErr f).status = s.status := rfl
@[simp] theorem State.flagErr_err (f : ErrFlag) (s : State) : (s.flagErr f).err = setBit s.err f.bit := rfl
@[simp] theorem State.flagErr_result (f : ErrFlag) (s : State) : (s.flagErr f).result = s.result := rfl
@[simp] theorem State.flagErr_ctrl (f : ErrFlag) (s : State) : (s.flagErr f).ctrl = s.ctrl := rfl
@[simp] theorem State.flagErr_c16 (f : ErrFlag) (s : State) : (s.flagErr f).c16 = s.c16 := rfl
@[simp] theorem State.flagErr_c8 (f : ErrFlag) (s : State) : (s.flagErr f).c8 = s.c8 := rfl
@[simp] theorem State.flagErr_serialLo (f : ErrFlag) (s : State) : (s.flagErr f).serialLo = s.serialLo := rfl
@[simp] theorem State.flagErr_serialHi (f : ErrFlag) (s : State) : (s.flagErr f).serialHi = s.serialHi := rfl
@[simp] theorem State.flagErr_family (f : ErrFlag) (s : State) : (s.flagErr f).family = s.family := rfl
@[simp] theorem State.flagErr_invAddr (f : ErrFlag) (s : State) : (s.flagErr f).invAddr = s.invAddr := rfl
@[simp] theorem State.flagErr_dtuAddr (f : ErrFlag) (s : State) : (s.flagErr f).dtuAddr = s.dtuAddr := rfl
@[simp] theorem State.flagErr_typeByte (f : ErrFlag) (s : State) : (s.flagErr f).typeByte = s.typeByte := rfl
@[simp] theorem State.flagErr_frameId (f : ErrFlag) (s : State) : (s.flagErr f).frameId = s.frameId := rfl
@[simp] theorem State.flagErr_epoch (f : ErrFlag) (s : State) : (s.flagErr f).epoch = s.epoch := rfl
@[simp] theorem State.flagErr_value (f : ErrFlag) (s : State) : (s.flagErr f).value = s.value := rfl
@[simp] theorem State.flagErr_modifier (f : ErrFlag) (s : State) : (s.flagErr f).modifier = s.modifier := rfl
@[simp] theorem State.flagErr_txpLen (f : ErrFlag) (s : State) : (s.flagErr f).txpLen = s.txpLen := rfl
@[simp] theorem State.flagErr_txfLen (f : ErrFlag) (s : State) : (s.flagErr f).txfLen = s.txfLen := rfl
@[simp] theorem State.flagErr_nfrag (f : ErrFlag) (s : State) : (s.flagErr f).nfrag = s.nfrag := rfl
@[simp] theorem State.flagErr_totLen (f : ErrFlag) (s : State) : (s.flagErr f).totLen = s.totLen := rfl
@[simp] theorem State.flagErr_fragId0 (f : ErrFlag) (s : State) : (s.flagErr f).fragId0 = s.fragId0 := rfl
@[simp] theorem State.flagErr_fragId1 (f : ErrFlag) (s : State) : (s.flagErr f).fragId1 = s.fragId1 := rfl
@[simp] theorem State.flagErr_fragId2 (f : ErrFlag) (s : State) : (s.flagErr f).fragId2 = s.fragId2 := rfl
@[simp] theorem State.flagErr_fragId3 (f : ErrFlag) (s : State) : (s.flagErr f).fragId3 = s.fragId3 := rfl
@[simp] theorem State.flagErr_outst (f : ErrFlag) (s : State) : (s.flagErr f).outst = s.outst := rfl
@[simp] theorem State.flagErr_coll (f : ErrFlag) (s : State) : (s.flagErr f).coll = s.coll := rfl
@[simp] theorem State.flagErr_asmLen (f : ErrFlag) (s : State) : (s.flagErr f).asmLen = s.asmLen := rfl
@[simp] theorem State.flagErr_buf (f : ErrFlag) (s : State) : (s.flagErr f).buf = s.buf := rfl
@[simp] theorem State.flagErr_draws (f : ErrFlag) (s : State) : (s.flagErr f).draws = s.draws := rfl
@[simp] theorem State.flagErr_readData (f : ErrFlag) (s : State) : (s.flagErr f).readData = s.readData := rfl
@[simp] theorem State.flagErr_pending (f : ErrFlag) (s : State) : (s.flagErr f).pending = s.pending := rfl

/-! ### writeBuf. Only the byte buffers change. -/

@[simp] theorem State.writeBuf_status (a : Nat) (bs : List Byte) (s : State) : (s.writeBuf a bs).status = s.status := rfl
@[simp] theorem State.writeBuf_err (a : Nat) (bs : List Byte) (s : State) : (s.writeBuf a bs).err = s.err := rfl
@[simp] theorem State.writeBuf_result (a : Nat) (bs : List Byte) (s : State) : (s.writeBuf a bs).result = s.result := rfl
@[simp] theorem State.writeBuf_ctrl (a : Nat) (bs : List Byte) (s : State) : (s.writeBuf a bs).ctrl = s.ctrl := rfl
@[simp] theorem State.writeBuf_c16 (a : Nat) (bs : List Byte) (s : State) : (s.writeBuf a bs).c16 = s.c16 := rfl
@[simp] theorem State.writeBuf_c8 (a : Nat) (bs : List Byte) (s : State) : (s.writeBuf a bs).c8 = s.c8 := rfl
@[simp] theorem State.writeBuf_serialLo (a : Nat) (bs : List Byte) (s : State) : (s.writeBuf a bs).serialLo = s.serialLo := rfl
@[simp] theorem State.writeBuf_serialHi (a : Nat) (bs : List Byte) (s : State) : (s.writeBuf a bs).serialHi = s.serialHi := rfl
@[simp] theorem State.writeBuf_family (a : Nat) (bs : List Byte) (s : State) : (s.writeBuf a bs).family = s.family := rfl
@[simp] theorem State.writeBuf_invAddr (a : Nat) (bs : List Byte) (s : State) : (s.writeBuf a bs).invAddr = s.invAddr := rfl
@[simp] theorem State.writeBuf_dtuAddr (a : Nat) (bs : List Byte) (s : State) : (s.writeBuf a bs).dtuAddr = s.dtuAddr := rfl
@[simp] theorem State.writeBuf_typeByte (a : Nat) (bs : List Byte) (s : State) : (s.writeBuf a bs).typeByte = s.typeByte := rfl
@[simp] theorem State.writeBuf_frameId (a : Nat) (bs : List Byte) (s : State) : (s.writeBuf a bs).frameId = s.frameId := rfl
@[simp] theorem State.writeBuf_epoch (a : Nat) (bs : List Byte) (s : State) : (s.writeBuf a bs).epoch = s.epoch := rfl
@[simp] theorem State.writeBuf_value (a : Nat) (bs : List Byte) (s : State) : (s.writeBuf a bs).value = s.value := rfl
@[simp] theorem State.writeBuf_modifier (a : Nat) (bs : List Byte) (s : State) : (s.writeBuf a bs).modifier = s.modifier := rfl
@[simp] theorem State.writeBuf_txpLen (a : Nat) (bs : List Byte) (s : State) : (s.writeBuf a bs).txpLen = s.txpLen := rfl
@[simp] theorem State.writeBuf_txfLen (a : Nat) (bs : List Byte) (s : State) : (s.writeBuf a bs).txfLen = s.txfLen := rfl
@[simp] theorem State.writeBuf_nfrag (a : Nat) (bs : List Byte) (s : State) : (s.writeBuf a bs).nfrag = s.nfrag := rfl
@[simp] theorem State.writeBuf_totLen (a : Nat) (bs : List Byte) (s : State) : (s.writeBuf a bs).totLen = s.totLen := rfl
@[simp] theorem State.writeBuf_fragId0 (a : Nat) (bs : List Byte) (s : State) : (s.writeBuf a bs).fragId0 = s.fragId0 := rfl
@[simp] theorem State.writeBuf_fragId1 (a : Nat) (bs : List Byte) (s : State) : (s.writeBuf a bs).fragId1 = s.fragId1 := rfl
@[simp] theorem State.writeBuf_fragId2 (a : Nat) (bs : List Byte) (s : State) : (s.writeBuf a bs).fragId2 = s.fragId2 := rfl
@[simp] theorem State.writeBuf_fragId3 (a : Nat) (bs : List Byte) (s : State) : (s.writeBuf a bs).fragId3 = s.fragId3 := rfl
@[simp] theorem State.writeBuf_outst (a : Nat) (bs : List Byte) (s : State) : (s.writeBuf a bs).outst = s.outst := rfl
@[simp] theorem State.writeBuf_coll (a : Nat) (bs : List Byte) (s : State) : (s.writeBuf a bs).coll = s.coll := rfl
@[simp] theorem State.writeBuf_asmLen (a : Nat) (bs : List Byte) (s : State) : (s.writeBuf a bs).asmLen = s.asmLen := rfl
@[simp] theorem State.writeBuf_buf (a : Nat) (bs : List Byte) (s : State) : (s.writeBuf a bs).buf = s.buf.writeBytes a bs := rfl
@[simp] theorem State.writeBuf_draws (a : Nat) (bs : List Byte) (s : State) : (s.writeBuf a bs).draws = s.draws := rfl
@[simp] theorem State.writeBuf_readData (a : Nat) (bs : List Byte) (s : State) : (s.writeBuf a bs).readData = s.readData := rfl
@[simp] theorem State.writeBuf_pending (a : Nat) (bs : List Byte) (s : State) : (s.writeBuf a bs).pending = s.pending := rfl

/-! ### rstasm. R182: only OUTST and COLL change. -/

@[simp] theorem State.rstasm_status (s : State) : (s.rstasm).status = s.status := rfl
@[simp] theorem State.rstasm_err (s : State) : (s.rstasm).err = s.err := rfl
@[simp] theorem State.rstasm_result (s : State) : (s.rstasm).result = s.result := rfl
@[simp] theorem State.rstasm_ctrl (s : State) : (s.rstasm).ctrl = s.ctrl := rfl
@[simp] theorem State.rstasm_c16 (s : State) : (s.rstasm).c16 = s.c16 := rfl
@[simp] theorem State.rstasm_c8 (s : State) : (s.rstasm).c8 = s.c8 := rfl
@[simp] theorem State.rstasm_serialLo (s : State) : (s.rstasm).serialLo = s.serialLo := rfl
@[simp] theorem State.rstasm_serialHi (s : State) : (s.rstasm).serialHi = s.serialHi := rfl
@[simp] theorem State.rstasm_family (s : State) : (s.rstasm).family = s.family := rfl
@[simp] theorem State.rstasm_invAddr (s : State) : (s.rstasm).invAddr = s.invAddr := rfl
@[simp] theorem State.rstasm_dtuAddr (s : State) : (s.rstasm).dtuAddr = s.dtuAddr := rfl
@[simp] theorem State.rstasm_typeByte (s : State) : (s.rstasm).typeByte = s.typeByte := rfl
@[simp] theorem State.rstasm_frameId (s : State) : (s.rstasm).frameId = s.frameId := rfl
@[simp] theorem State.rstasm_epoch (s : State) : (s.rstasm).epoch = s.epoch := rfl
@[simp] theorem State.rstasm_value (s : State) : (s.rstasm).value = s.value := rfl
@[simp] theorem State.rstasm_modifier (s : State) : (s.rstasm).modifier = s.modifier := rfl
@[simp] theorem State.rstasm_txpLen (s : State) : (s.rstasm).txpLen = s.txpLen := rfl
@[simp] theorem State.rstasm_txfLen (s : State) : (s.rstasm).txfLen = s.txfLen := rfl
@[simp] theorem State.rstasm_nfrag (s : State) : (s.rstasm).nfrag = s.nfrag := rfl
@[simp] theorem State.rstasm_totLen (s : State) : (s.rstasm).totLen = s.totLen := rfl
@[simp] theorem State.rstasm_fragId0 (s : State) : (s.rstasm).fragId0 = s.fragId0 := rfl
@[simp] theorem State.rstasm_fragId1 (s : State) : (s.rstasm).fragId1 = s.fragId1 := rfl
@[simp] theorem State.rstasm_fragId2 (s : State) : (s.rstasm).fragId2 = s.fragId2 := rfl
@[simp] theorem State.rstasm_fragId3 (s : State) : (s.rstasm).fragId3 = s.fragId3 := rfl
@[simp] theorem State.rstasm_outst (s : State) : (s.rstasm).outst = BitVec.ofNat 4 (2 ^ s.nfrag.toNat - 1) := rfl
@[simp] theorem State.rstasm_coll (s : State) : (s.rstasm).coll = 0#4 := rfl
@[simp] theorem State.rstasm_asmLen (s : State) : (s.rstasm).asmLen = s.asmLen := rfl
@[simp] theorem State.rstasm_buf (s : State) : (s.rstasm).buf = s.buf := rfl
@[simp] theorem State.rstasm_draws (s : State) : (s.rstasm).draws = s.draws := rfl
@[simp] theorem State.rstasm_readData (s : State) : (s.rstasm).readData = s.readData := rfl
@[simp] theorem State.rstasm_pending (s : State) : (s.rstasm).pending = s.pending := rfl

/-! ### identFail. R162: a serial without a family changes only FAMILY, RESULT and ERR. -/

@[simp] theorem State.identFail_status (s : State) : (s.identFail).status = s.status := rfl
@[simp] theorem State.identFail_err (s : State) : (s.identFail).err = setBit s.err ErrFlag.eFamily.bit := rfl
@[simp] theorem State.identFail_result (s : State) : (s.identFail).result = 0#32 := rfl
@[simp] theorem State.identFail_ctrl (s : State) : (s.identFail).ctrl = s.ctrl := rfl
@[simp] theorem State.identFail_c16 (s : State) : (s.identFail).c16 = s.c16 := rfl
@[simp] theorem State.identFail_c8 (s : State) : (s.identFail).c8 = s.c8 := rfl
@[simp] theorem State.identFail_serialLo (s : State) : (s.identFail).serialLo = s.serialLo := rfl
@[simp] theorem State.identFail_serialHi (s : State) : (s.identFail).serialHi = s.serialHi := rfl
@[simp] theorem State.identFail_family (s : State) : (s.identFail).family = 0#2 := rfl
@[simp] theorem State.identFail_invAddr (s : State) : (s.identFail).invAddr = s.invAddr := rfl
@[simp] theorem State.identFail_dtuAddr (s : State) : (s.identFail).dtuAddr = s.dtuAddr := rfl
@[simp] theorem State.identFail_typeByte (s : State) : (s.identFail).typeByte = s.typeByte := rfl
@[simp] theorem State.identFail_frameId (s : State) : (s.identFail).frameId = s.frameId := rfl
@[simp] theorem State.identFail_epoch (s : State) : (s.identFail).epoch = s.epoch := rfl
@[simp] theorem State.identFail_value (s : State) : (s.identFail).value = s.value := rfl
@[simp] theorem State.identFail_modifier (s : State) : (s.identFail).modifier = s.modifier := rfl
@[simp] theorem State.identFail_txpLen (s : State) : (s.identFail).txpLen = s.txpLen := rfl
@[simp] theorem State.identFail_txfLen (s : State) : (s.identFail).txfLen = s.txfLen := rfl
@[simp] theorem State.identFail_nfrag (s : State) : (s.identFail).nfrag = s.nfrag := rfl
@[simp] theorem State.identFail_totLen (s : State) : (s.identFail).totLen = s.totLen := rfl
@[simp] theorem State.identFail_fragId0 (s : State) : (s.identFail).fragId0 = s.fragId0 := rfl
@[simp] theorem State.identFail_fragId1 (s : State) : (s.identFail).fragId1 = s.fragId1 := rfl
@[simp] theorem State.identFail_fragId2 (s : State) : (s.identFail).fragId2 = s.fragId2 := rfl
@[simp] theorem State.identFail_fragId3 (s : State) : (s.identFail).fragId3 = s.fragId3 := rfl
@[simp] theorem State.identFail_outst (s : State) : (s.identFail).outst = s.outst := rfl
@[simp] theorem State.identFail_coll (s : State) : (s.identFail).coll = s.coll := rfl
@[simp] theorem State.identFail_asmLen (s : State) : (s.identFail).asmLen = s.asmLen := rfl
@[simp] theorem State.identFail_buf (s : State) : (s.identFail).buf = s.buf := rfl
@[simp] theorem State.identFail_draws (s : State) : (s.identFail).draws = s.draws := rfl
@[simp] theorem State.identFail_readData (s : State) : (s.identFail).readData = s.readData := rfl
@[simp] theorem State.identFail_pending (s : State) : (s.identFail).pending = s.pending := rfl

/-! ### identLoad. R162: a serial with a family changes only FAMILY, RESULT and the schema registers. -/

@[simp] theorem State.identLoad_status (f : Family) (s : State) : (s.identLoad f).status = s.status := rfl
@[simp] theorem State.identLoad_err (f : Family) (s : State) : (s.identLoad f).err = s.err := rfl
@[simp] theorem State.identLoad_result (f : Family) (s : State) : (s.identLoad f).result = (familyNumber f).setWidth 32 := rfl
@[simp] theorem State.identLoad_ctrl (f : Family) (s : State) : (s.identLoad f).ctrl = s.ctrl := rfl
@[simp] theorem State.identLoad_c16 (f : Family) (s : State) : (s.identLoad f).c16 = s.c16 := rfl
@[simp] theorem State.identLoad_c8 (f : Family) (s : State) : (s.identLoad f).c8 = s.c8 := rfl
@[simp] theorem State.identLoad_serialLo (f : Family) (s : State) : (s.identLoad f).serialLo = s.serialLo := rfl
@[simp] theorem State.identLoad_serialHi (f : Family) (s : State) : (s.identLoad f).serialHi = s.serialHi := rfl
@[simp] theorem State.identLoad_family (f : Family) (s : State) : (s.identLoad f).family = familyNumber f := rfl
@[simp] theorem State.identLoad_invAddr (f : Family) (s : State) : (s.identLoad f).invAddr = s.invAddr := rfl
@[simp] theorem State.identLoad_dtuAddr (f : Family) (s : State) : (s.identLoad f).dtuAddr = s.dtuAddr := rfl
@[simp] theorem State.identLoad_typeByte (f : Family) (s : State) : (s.identLoad f).typeByte = s.typeByte := rfl
@[simp] theorem State.identLoad_frameId (f : Family) (s : State) : (s.identLoad f).frameId = s.frameId := rfl
@[simp] theorem State.identLoad_epoch (f : Family) (s : State) : (s.identLoad f).epoch = s.epoch := rfl
@[simp] theorem State.identLoad_value (f : Family) (s : State) : (s.identLoad f).value = s.value := rfl
@[simp] theorem State.identLoad_modifier (f : Family) (s : State) : (s.identLoad f).modifier = s.modifier := rfl
@[simp] theorem State.identLoad_txpLen (f : Family) (s : State) : (s.identLoad f).txpLen = s.txpLen := rfl
@[simp] theorem State.identLoad_txfLen (f : Family) (s : State) : (s.identLoad f).txfLen = s.txfLen := rfl
@[simp] theorem State.identLoad_nfrag (f : Family) (s : State) : (s.identLoad f).nfrag = familyNfrag f := rfl
@[simp] theorem State.identLoad_totLen (f : Family) (s : State) : (s.identLoad f).totLen = familyTotLen f := rfl
@[simp] theorem State.identLoad_fragId0 (f : Family) (s : State) : (s.identLoad f).fragId0 = familyFragId f 0 := rfl
@[simp] theorem State.identLoad_fragId1 (f : Family) (s : State) : (s.identLoad f).fragId1 = familyFragId f 1 := rfl
@[simp] theorem State.identLoad_fragId2 (f : Family) (s : State) : (s.identLoad f).fragId2 = familyFragId f 2 := rfl
@[simp] theorem State.identLoad_fragId3 (f : Family) (s : State) : (s.identLoad f).fragId3 = familyFragId f 3 := rfl
@[simp] theorem State.identLoad_outst (f : Family) (s : State) : (s.identLoad f).outst = s.outst := rfl
@[simp] theorem State.identLoad_coll (f : Family) (s : State) : (s.identLoad f).coll = s.coll := rfl
@[simp] theorem State.identLoad_asmLen (f : Family) (s : State) : (s.identLoad f).asmLen = s.asmLen := rfl
@[simp] theorem State.identLoad_buf (f : Family) (s : State) : (s.identLoad f).buf = s.buf := rfl
@[simp] theorem State.identLoad_draws (f : Family) (s : State) : (s.identLoad f).draws = s.draws := rfl
@[simp] theorem State.identLoad_readData (f : Family) (s : State) : (s.identLoad f).readData = s.readData := rfl
@[simp] theorem State.identLoad_pending (f : Family) (s : State) : (s.identLoad f).pending = s.pending := rfl

/-! ### resetBlock. R202: every field of the block takes its reset value; the model's own three fields stay. -/

@[simp] theorem State.resetBlock_status (s : State) : (s.resetBlock).status = State.reset.status := rfl
@[simp] theorem State.resetBlock_err (s : State) : (s.resetBlock).err = State.reset.err := rfl
@[simp] theorem State.resetBlock_result (s : State) : (s.resetBlock).result = State.reset.result := rfl
@[simp] theorem State.resetBlock_ctrl (s : State) : (s.resetBlock).ctrl = State.reset.ctrl := rfl
@[simp] theorem State.resetBlock_c16 (s : State) : (s.resetBlock).c16 = State.reset.c16 := rfl
@[simp] theorem State.resetBlock_c8 (s : State) : (s.resetBlock).c8 = State.reset.c8 := rfl
@[simp] theorem State.resetBlock_serialLo (s : State) : (s.resetBlock).serialLo = State.reset.serialLo := rfl
@[simp] theorem State.resetBlock_serialHi (s : State) : (s.resetBlock).serialHi = State.reset.serialHi := rfl
@[simp] theorem State.resetBlock_family (s : State) : (s.resetBlock).family = State.reset.family := rfl
@[simp] theorem State.resetBlock_invAddr (s : State) : (s.resetBlock).invAddr = State.reset.invAddr := rfl
@[simp] theorem State.resetBlock_dtuAddr (s : State) : (s.resetBlock).dtuAddr = State.reset.dtuAddr := rfl
@[simp] theorem State.resetBlock_typeByte (s : State) : (s.resetBlock).typeByte = State.reset.typeByte := rfl
@[simp] theorem State.resetBlock_frameId (s : State) : (s.resetBlock).frameId = State.reset.frameId := rfl
@[simp] theorem State.resetBlock_epoch (s : State) : (s.resetBlock).epoch = State.reset.epoch := rfl
@[simp] theorem State.resetBlock_value (s : State) : (s.resetBlock).value = State.reset.value := rfl
@[simp] theorem State.resetBlock_modifier (s : State) : (s.resetBlock).modifier = State.reset.modifier := rfl
@[simp] theorem State.resetBlock_txpLen (s : State) : (s.resetBlock).txpLen = State.reset.txpLen := rfl
@[simp] theorem State.resetBlock_txfLen (s : State) : (s.resetBlock).txfLen = State.reset.txfLen := rfl
@[simp] theorem State.resetBlock_nfrag (s : State) : (s.resetBlock).nfrag = State.reset.nfrag := rfl
@[simp] theorem State.resetBlock_totLen (s : State) : (s.resetBlock).totLen = State.reset.totLen := rfl
@[simp] theorem State.resetBlock_fragId0 (s : State) : (s.resetBlock).fragId0 = State.reset.fragId0 := rfl
@[simp] theorem State.resetBlock_fragId1 (s : State) : (s.resetBlock).fragId1 = State.reset.fragId1 := rfl
@[simp] theorem State.resetBlock_fragId2 (s : State) : (s.resetBlock).fragId2 = State.reset.fragId2 := rfl
@[simp] theorem State.resetBlock_fragId3 (s : State) : (s.resetBlock).fragId3 = State.reset.fragId3 := rfl
@[simp] theorem State.resetBlock_outst (s : State) : (s.resetBlock).outst = State.reset.outst := rfl
@[simp] theorem State.resetBlock_coll (s : State) : (s.resetBlock).coll = State.reset.coll := rfl
@[simp] theorem State.resetBlock_asmLen (s : State) : (s.resetBlock).asmLen = State.reset.asmLen := rfl
@[simp] theorem State.resetBlock_buf (s : State) : (s.resetBlock).buf = State.reset.buf := rfl
@[simp] theorem State.resetBlock_draws (s : State) : (s.resetBlock).draws = s.draws := rfl
@[simp] theorem State.resetBlock_readData (s : State) : (s.resetBlock).readData = s.readData := rfl
@[simp] theorem State.resetBlock_pending (s : State) : (s.resetBlock).pending = s.pending := rfl

/-! ### issueWord. Log 1: issuing a word changes only what is pending. -/

@[simp] theorem State.issueWord_status (w : Word) (s : State) : (s.issueWord w).status = s.status := rfl
@[simp] theorem State.issueWord_err (w : Word) (s : State) : (s.issueWord w).err = s.err := rfl
@[simp] theorem State.issueWord_result (w : Word) (s : State) : (s.issueWord w).result = s.result := rfl
@[simp] theorem State.issueWord_ctrl (w : Word) (s : State) : (s.issueWord w).ctrl = s.ctrl := rfl
@[simp] theorem State.issueWord_c16 (w : Word) (s : State) : (s.issueWord w).c16 = s.c16 := rfl
@[simp] theorem State.issueWord_c8 (w : Word) (s : State) : (s.issueWord w).c8 = s.c8 := rfl
@[simp] theorem State.issueWord_serialLo (w : Word) (s : State) : (s.issueWord w).serialLo = s.serialLo := rfl
@[simp] theorem State.issueWord_serialHi (w : Word) (s : State) : (s.issueWord w).serialHi = s.serialHi := rfl
@[simp] theorem State.issueWord_family (w : Word) (s : State) : (s.issueWord w).family = s.family := rfl
@[simp] theorem State.issueWord_invAddr (w : Word) (s : State) : (s.issueWord w).invAddr = s.invAddr := rfl
@[simp] theorem State.issueWord_dtuAddr (w : Word) (s : State) : (s.issueWord w).dtuAddr = s.dtuAddr := rfl
@[simp] theorem State.issueWord_typeByte (w : Word) (s : State) : (s.issueWord w).typeByte = s.typeByte := rfl
@[simp] theorem State.issueWord_frameId (w : Word) (s : State) : (s.issueWord w).frameId = s.frameId := rfl
@[simp] theorem State.issueWord_epoch (w : Word) (s : State) : (s.issueWord w).epoch = s.epoch := rfl
@[simp] theorem State.issueWord_value (w : Word) (s : State) : (s.issueWord w).value = s.value := rfl
@[simp] theorem State.issueWord_modifier (w : Word) (s : State) : (s.issueWord w).modifier = s.modifier := rfl
@[simp] theorem State.issueWord_txpLen (w : Word) (s : State) : (s.issueWord w).txpLen = s.txpLen := rfl
@[simp] theorem State.issueWord_txfLen (w : Word) (s : State) : (s.issueWord w).txfLen = s.txfLen := rfl
@[simp] theorem State.issueWord_nfrag (w : Word) (s : State) : (s.issueWord w).nfrag = s.nfrag := rfl
@[simp] theorem State.issueWord_totLen (w : Word) (s : State) : (s.issueWord w).totLen = s.totLen := rfl
@[simp] theorem State.issueWord_fragId0 (w : Word) (s : State) : (s.issueWord w).fragId0 = s.fragId0 := rfl
@[simp] theorem State.issueWord_fragId1 (w : Word) (s : State) : (s.issueWord w).fragId1 = s.fragId1 := rfl
@[simp] theorem State.issueWord_fragId2 (w : Word) (s : State) : (s.issueWord w).fragId2 = s.fragId2 := rfl
@[simp] theorem State.issueWord_fragId3 (w : Word) (s : State) : (s.issueWord w).fragId3 = s.fragId3 := rfl
@[simp] theorem State.issueWord_outst (w : Word) (s : State) : (s.issueWord w).outst = s.outst := rfl
@[simp] theorem State.issueWord_coll (w : Word) (s : State) : (s.issueWord w).coll = s.coll := rfl
@[simp] theorem State.issueWord_asmLen (w : Word) (s : State) : (s.issueWord w).asmLen = s.asmLen := rfl
@[simp] theorem State.issueWord_buf (w : Word) (s : State) : (s.issueWord w).buf = s.buf := rfl
@[simp] theorem State.issueWord_draws (w : Word) (s : State) : (s.issueWord w).draws = s.draws := rfl
@[simp] theorem State.issueWord_readData (w : Word) (s : State) : (s.issueWord w).readData = s.readData := rfl
@[simp] theorem State.issueWord_pending (w : Word) (s : State) : (s.issueWord w).pending = .write 0x000#12 w :: s.pending := rfl

end Sys2Proof.Machine
end

