-- ==== Sys2Proof/Laws/Ops.lean ====
section
/-! SUPPORT. One lemma for each shared operation that says all it can do: single bits, the frame's length, `pack`
and what the build commands share, one round and the whole loop of ABSORB, `rstasm`, the flag of ASSEMBLE, a
register write, the execution of a word, one step. -/

namespace Sys2Proof.Machine

/-! ### Single bits -/

theorem setBit_getLsbD {n : Nat} (v : BitVec n) (i j : Nat) :
    (setBit v i).getLsbD j = (v.getLsbD j || (decide (i < n) && decide (j = i))) := by
  simp only [setBit, BitVec.getLsbD_or, BitVec.getLsbD_twoPow, eq_comm]

theorem clearBit_getLsbD {n : Nat} (v : BitVec n) (i j : Nat) :
    (clearBit v i).getLsbD j = (v.getLsbD j && !decide (j = i)) := by
  simp only [clearBit, BitVec.getLsbD_and, BitVec.getLsbD_not, BitVec.getLsbD_twoPow]
  rcases Nat.lt_or_ge j n with h | h
  · by_cases hij : j = i
    · subst hij; simp [h]
    · simp [h, hij, Ne.symm hij]
  · simp [BitVec.getLsbD_of_ge v j h]

/-! ### The outbound frame -/

@[simp] theorem bytes32_length (v : BitVec 32) : (bytes32 v).length = 4 := rfl

@[simp] theorem bytes16_length (v : BitVec 16) : (bytes16 v).length = 2 := rfl

@[simp] theorem infoPayload_length (e : BitVec 32) : (infoPayload e).length = 13 := rfl

theorem cmdPayload_length (code : Byte) (hv : Bool) (val mod : BitVec 16) :
    (cmdPayload code hv val mod).length = if hv then 5 else 1 := by
  cases hv <;> rfl

theorem payloadSeal_length (p : List Byte) (c : BitVec 1) :
    (payloadSeal p c).length = 2 * c.toNat := by
  rcases BitVec.eq_zero_or_eq_one c with h | h <;> subst h <;> rfl

theorem frameBytes_length (t : Byte) (inv dtu : BitVec 32) (f : Byte) (p : List Byte) (c : BitVec 1) :
    (frameBytes t inv dtu f p c).length = frameLength p.length c := by
  simp [frameBytes, frameBody, frameLength, payloadSeal_length]
  omega

/-- `pack` on a frame that is too long (R143). -/
theorem State.pack_of_lt {t : Byte} {n : Nat} {c : BitVec 1} (s : State) (h : 32 < frameLength n c) :
    s.pack t n c = { s with err := setBit s.err 2, txfLen := 0#6, result := 0#32 } := by
  rw [State.pack, if_pos (by simpa [Config.txMax] using h)]
  rfl

/-- `pack` on a frame that fits (R143). -/
theorem State.pack_of_le {t : Byte} {n : Nat} {c : BitVec 1} (s : State) (h : frameLength n c ≤ 32) :
    s.pack t n c = { s with
      buf := s.buf.writeBytes Config.txfBase
        (frameBytes t s.invAddr s.dtuAddr s.frameId (s.buf.readBytes Config.txpBase n) c)
      txfLen := BitVec.ofNat 6 (frameLength n c)
      result := BitVec.ofNat 32 (frameLength n c) } := by
  rw [State.pack, if_neg (by simp [Config.txMax]; exact h)]
  rfl

/-- In a canonical memory a stored run is read back whole. -/
theorem Memory.readBytes_writeBytes {m : Memory} (h : m.wf = true) (a : Nat) (bs : List Byte) :
    (m.writeBytes a bs).readBytes a bs.length = bs := by
  apply List.ext_getElem (by simp)
  intro k hk hk'
  simp only [Memory.readBytes, List.getElem_map, List.getElem_range]
  rw [Memory.read_writeBytes_inside h (by omega) (by omega)]
  simp [hk']

/-- What the build commands share, on a payload whose frame fits (R146, R148, R150). -/
theorem State.build_of_le {t : Byte} {p : List Byte} (s : State) (hw : s.buf.wf = true)
    (h : p.length ≤ 19) :
    s.build t p = { s with
      buf := (s.buf.writeBytes Config.txpBase p).writeBytes Config.txfBase
        (frameBytes t s.invAddr s.dtuAddr s.frameId p 1#1)
      txpLen := BitVec.ofNat 5 p.length
      txfLen := BitVec.ofNat 6 (p.length + 13)
      result := BitVec.ofNat 32 (p.length + 13) } := by
  have hl : frameLength p.length 1#1 = p.length + 13 := by simp [frameLength]; omega
  rw [State.build, State.pack_of_le _ (by omega)]
  simp only [State.writeBuf, Memory.readBytes_writeBytes hw, hl]

/-- `build` without the canonical form, for what does not depend on the bytes (R143). -/
theorem State.build_eq {t : Byte} {p : List Byte} (s : State) (h : p.length ≤ 19) :
    s.build t p = { s with
      buf := (s.buf.writeBytes Config.txpBase p).writeBytes Config.txfBase
        (frameBytes t s.invAddr s.dtuAddr s.frameId
          ((s.buf.writeBytes Config.txpBase p).readBytes Config.txpBase p.length) 1#1)
      txpLen := BitVec.ofNat 5 p.length
      txfLen := BitVec.ofNat 6 (p.length + 13)
      result := BitVec.ofNat 32 (p.length + 13) } := by
  have hl : frameLength p.length 1#1 = p.length + 13 := by simp [frameLength]; omega
  rw [State.build, State.pack_of_le _ (by omega)]
  simp only [State.writeBuf, hl]

/-! ### Reassembly -/

/-- `rstasm` sets exactly the bits of OUTST below NFRAG (R182). -/
theorem rstasm_outst_getLsbD (s : State) (i : Fin 4) :
    s.rstasm.outst.getLsbD i.val = decide (i.val < s.nfrag.toNat) := by
  simp only [State.rstasm_outst]
  generalize s.nfrag = n
  revert n i
  decide

/-- Whether ABSORB stores the fragment at schema position `i` (R184). -/
abbrev State.expects (s : State) (f : Fragment) (i : Fin 4) : Prop :=
  i.val < s.nfrag.toNat ∧ s.fragId i = f.id

/-- One round of ABSORB's loop at a position that expects the id. -/
theorem State.absorbAt_of_expects {s : State} {f : Fragment} {i : Fin 4} (h : s.expects f i) :
    State.absorbAt f s i = { s with
      buf := s.buf.writeBytes (Config.slotBase + Config.fragPayload * i.val) f.payload
      coll := setBit s.coll i.val
      outst := clearBit s.outst i.val } := by
  rw [State.absorbAt, if_pos h]
  rfl

/-- One round of ABSORB's loop at a position that does not expect the id. -/
theorem State.absorbAt_of_not {s : State} {f : Fragment} {i : Fin 4} (h : ¬s.expects f i) :
    State.absorbAt f s i = s := by
  rw [State.absorbAt, if_neg h]

/-- One round changes OUTST, COLL and the buffers alone. -/
theorem State.absorbAt_frame (f : Fragment) (s : State) (i : Fin 4) :
    State.absorbAt f s i = { s with
      buf := (State.absorbAt f s i).buf
      coll := (State.absorbAt f s i).coll
      outst := (State.absorbAt f s i).outst } := by
  by_cases h : s.expects f i
  · rw [State.absorbAt_of_expects h]
  · rw [State.absorbAt_of_not h]

theorem State.absorbAt_nfrag (f : Fragment) (s : State) (i : Fin 4) :
    (State.absorbAt f s i).nfrag = s.nfrag := by
  rw [State.absorbAt_frame]

theorem State.absorbAt_fragId (f : Fragment) (s : State) (i k : Fin 4) :
    (State.absorbAt f s i).fragId k = s.fragId k := by
  rw [State.absorbAt_frame]; fin_cases k <;> rfl

theorem State.absorbAt_expects (f g : Fragment) (s : State) (i k : Fin 4) :
    (State.absorbAt f s i).expects g k ↔ s.expects g k := by
  simp only [State.expects, State.absorbAt_nfrag, State.absorbAt_fragId]

/-- A bit of COLL after one round. -/
theorem State.absorbAt_coll (f : Fragment) (s : State) (i : Fin 4) (j : Nat) :
    (State.absorbAt f s i).coll.getLsbD j =
      (s.coll.getLsbD j || (decide (s.expects f i) && decide (j = i.val))) := by
  by_cases h : s.expects f i
  · rw [State.absorbAt_of_expects h, setBit_getLsbD]
    simp [h]
  · rw [State.absorbAt_of_not h]
    simp [h]

/-- A bit of OUTST after one round. -/
theorem State.absorbAt_outst (f : Fragment) (s : State) (i : Fin 4) (j : Nat) :
    (State.absorbAt f s i).outst.getLsbD j =
      (s.outst.getLsbD j && !(decide (s.expects f i) && decide (j = i.val))) := by
  by_cases h : s.expects f i
  · rw [State.absorbAt_of_expects h, clearBit_getLsbD]
    simp [h]
  · rw [State.absorbAt_of_not h]
    simp [h]

/-- A byte after one round: the payload's byte in the slot of a position that expects the id, the old byte
elsewhere. -/
theorem State.absorbAt_read {f : Fragment} {s : State} (hw : s.buf.wf = true)
    (hp : f.payload.length = 16) (i : Fin 4) (a : Nat) :
    (State.absorbAt f s i).buf.read a =
      if s.expects f i ∧ 0x100 + 16 * i.val ≤ a ∧ a < 0x100 + 16 * i.val + 16 then
        f.payload.getD (a - (0x100 + 16 * i.val)) 0#8
      else s.buf.read a := by
  by_cases h : s.expects f i
  · rw [State.absorbAt_of_expects h]
    simp only [Memory.read_writeBytes hw, hp, Config.slotBase, Config.fragPayload]
    exact if_congr ⟨fun x => ⟨h, x⟩, fun x => x.2⟩ rfl rfl
  · rw [State.absorbAt_of_not h, if_neg fun x => h x.1]

theorem State.absorbAt_wf {f : Fragment} {s : State} (hw : s.buf.wf = true) (i : Fin 4) :
    (State.absorbAt f s i).buf.wf = true := by
  by_cases h : s.expects f i
  · rw [State.absorbAt_of_expects h]; exact Memory.wf_writeBytes hw _ _
  · rwa [State.absorbAt_of_not h]

/-- The loop of ABSORB changes OUTST, COLL and the buffers alone. -/
theorem State.absorbGood_frame (f : Fragment) (s : State) :
    s.absorbGood f = { s with
      buf := (s.absorbGood f).buf
      coll := (s.absorbGood f).coll
      outst := (s.absorbGood f).outst } := by
  simp only [State.absorbGood, List.foldl_cons, List.foldl_nil]
  rw [State.absorbAt_frame f _ 3, State.absorbAt_frame f _ 2, State.absorbAt_frame f _ 1,
    State.absorbAt_frame f s 0]

/-- A bit of COLL after the loop of ABSORB. -/
theorem State.absorbGood_coll (f : Fragment) (s : State) (i : Fin 4) :
    (s.absorbGood f).coll.getLsbD i.val = (s.coll.getLsbD i.val || decide (s.expects f i)) := by
  simp only [State.absorbGood, List.foldl_cons, List.foldl_nil, State.absorbAt_coll,
    State.absorbAt_expects]
  fin_cases i <;> simp

/-- A bit of OUTST after the loop of ABSORB. -/
theorem State.absorbGood_outst (f : Fragment) (s : State) (i : Fin 4) :
    (s.absorbGood f).outst.getLsbD i.val = (s.outst.getLsbD i.val && !decide (s.expects f i)) := by
  simp only [State.absorbGood, List.foldl_cons, List.foldl_nil, State.absorbAt_outst,
    State.absorbAt_expects]
  fin_cases i <;> simp

/-- A byte of the slot of position `i` after one round at position `k`. -/
theorem State.absorbAt_slot {f : Fragment} {s : State} (hw : s.buf.wf = true)
    (hp : f.payload.length = 16) (k i : Fin 4) {j : Nat} (hj : j < 16) :
    (State.absorbAt f s k).buf.read (0x100 + 16 * i.val + j) =
      if k = i ∧ s.expects f k then f.payload.getD j 0#8
      else s.buf.read (0x100 + 16 * i.val + j) := by
  rw [State.absorbAt_read hw hp]
  by_cases hki : k = i
  · subst hki
    rw [show 0x100 + 16 * k.val + j - (0x100 + 16 * k.val) = j by omega]
    exact if_congr ⟨fun x => ⟨rfl, x.1⟩, fun x => ⟨x.2, by omega, by omega⟩⟩ rfl rfl
  · have : k.val ≠ i.val := fun h => hki (Fin.ext h)
    rw [if_neg (fun x => by omega), if_neg (fun x => hki x.1)]

/-- A byte after the loop of ABSORB, in the slot of position `i`. -/
theorem State.absorbGood_slot {f : Fragment} {s : State} (hw : s.buf.wf = true)
    (hp : f.payload.length = 16) (i : Fin 4) {j : Nat} (hj : j < 16) :
    (s.absorbGood f).buf.read (0x100 + 16 * i.val + j) =
      if s.expects f i then f.payload.getD j 0#8 else s.buf.read (0x100 + 16 * i.val + j) := by
  simp only [State.absorbGood, List.foldl_cons, List.foldl_nil]
  have w0 := State.absorbAt_wf (f := f) hw 0
  have w1 := State.absorbAt_wf (f := f) w0 1
  have w2 := State.absorbAt_wf (f := f) w1 2
  rw [State.absorbAt_slot w2 hp _ _ hj, State.absorbAt_slot w1 hp _ _ hj,
    State.absorbAt_slot w0 hp _ _ hj, State.absorbAt_slot hw hp _ _ hj]
  simp only [State.absorbAt_expects]
  have key : ∀ k : Fin 4, (k = i ∧ s.expects f k) ↔ (k = i ∧ s.expects f i) := by
    rintro k
    constructor <;> rintro ⟨rfl, h⟩ <;> exact ⟨rfl, h⟩
  simp only [key]
  by_cases h : s.expects f i
  · have hi : 3 = i ∨ 2 = i ∨ 1 = i ∨ 0 = i := by omega
    rw [if_pos h]
    split_ifs with h3 h2 h1 h0
    · rfl
    · rfl
    · rfl
    · rfl
    · rcases hi with hi | hi | hi | hi
      · exact absurd ⟨hi, h⟩ h3
      · exact absurd ⟨hi, h⟩ h2
      · exact absurd ⟨hi, h⟩ h1
      · exact absurd ⟨hi, h⟩ h0
  · have hn : ∀ k : Fin 4, ¬(k = i ∧ s.expects f i) := fun k x => h x.2
    rw [if_neg h, if_neg (hn 3), if_neg (hn 2), if_neg (hn 1), if_neg (hn 0)]

/-- The loop of ABSORB leaves every byte outside the slots alone. -/
theorem State.absorbGood_outside {f : Fragment} (s : State) (hp : f.payload.length = 16) {a : Nat}
    (h : a < 0x100 ∨ 0x140 ≤ a) : (s.absorbGood f).buf.read a = s.buf.read a := by
  have step : ∀ (t : State) (i : Fin 4), (State.absorbAt f t i).buf.read a = t.buf.read a := by
    intro t i
    by_cases hx : t.expects f i
    · rw [State.absorbAt_of_expects hx]
      apply Memory.read_writeBytes_outside
      rw [hp]
      simp only [Config.slotBase, Config.fragPayload]
      omega
    · rw [State.absorbAt_of_not hx]
  simp only [State.absorbGood, List.foldl_cons, List.foldl_nil, step]

theorem State.absorbGood_wf {f : Fragment} {s : State} (hw : s.buf.wf = true) :
    (s.absorbGood f).buf.wf = true := by
  simp only [State.absorbGood, List.foldl_cons, List.foldl_nil]
  exact State.absorbAt_wf (State.absorbAt_wf (State.absorbAt_wf (State.absorbAt_wf hw 0) 1) 2) 3

/-- What the raw frame in RXF unpacks to (R101). -/
theorem unpack_rawFrame (s : State) :
    unpack s.rawFrame =
      ⟨s.buf.read 0x089, (List.range 16).map (fun j => s.buf.read (0x08A + j)), s.buf.read 0x09A,
        (List.range 26).map fun k => s.buf.read (0x080 + k)⟩ := by
  simp only [unpack, Config.fragIdOff, Config.fragCrcOff, Config.fragPayOff, Config.fragPayload,
    slice, State.rawFrame, Memory.readBytes, Config.rxfBase, Config.rawLen]
  rfl

/-- The flag of ASSEMBLE (R188). -/
theorem State.flagIncomplete_eq (s : State) :
    s.flagIncomplete = { s with err := if s.outst = 0#4 then s.err else setBit s.err 5 } := by
  unfold State.flagIncomplete
  split <;> rfl

/-! ### Register writes, words and steps -/

/-- What `RegWrite` can do to a mapped register that is not CMD (R73). -/
theorem Reg.write_cases (v : Word) (s : State) (r : Reg) :
    (r.access = .ro ∧ r.write v s = s.flagErr .eReg) ∨
      (∃ max, r.access = .rwChecked max ∧ max < v.toNat ∧ r.write v s = s.flagErr .eRange) ∨
      (∃ max, r.access = .rwChecked max ∧ v.toNat ≤ max ∧ r.write v s = r.store v s) ∨
      (r.access = .rw ∧ r.write v s = r.store v s) ∨ (r.access = .wo ∧ r.write v s = s) := by
  unfold Reg.write
  cases h : r.access with
  | ro => simp
  | wo => simp
  | rw => simp
  | rwChecked max =>
    by_cases hv : max < v.toNat
    · simp [hv]
    · simp [hv]; omega

/-- What the execution of a word can do (R28, R93). -/
theorem execWord_cases (w : Word) (s : State) :
    (∃ i, decode w = .ok i ∧ execWord w s = exec i s) ∨
      (∃ e, decode w = .error e ∧ execWord w s = .next (s.flagErr .eOpcode)) := by
  unfold execWord
  cases h : decode w with
  | ok i => exact .inl ⟨i, rfl, rfl⟩
  | error e => exact .inr ⟨e, rfl, rfl⟩

/-- What `RegWrite` can do (R73). -/
theorem regWrite_cases (n : RegNum) (v : Word) (s : State) :
    (regAt n = none ∧ regWrite n v s = .next (s.flagErr .eReg)) ∨
      (regAt n = some .cmd ∧ regWrite n v s = execWord v s) ∨
      (∃ r, r ≠ .cmd ∧ regAt n = some r ∧ regWrite n v s = .next (r.write v s)) := by
  unfold regWrite
  cases h : regAt n with
  | none => simp
  | some r =>
    by_cases hr : r = .cmd
    · subst hr; simp
    · refine .inr (.inr ⟨r, hr, rfl, ?_⟩)
      cases r <;> first | rfl | exact absurd rfl hr

/-- What a step can do: nothing when idle, else the next event of the host. -/
theorem step_cases (s : State) :
    (s.pending = [] ∧ step s = .next s) ∨
      (∃ n rest, s.pending = .read n :: rest ∧
        step s = .next { s with pending := rest, readData := regRead n s }) ∨
      (∃ n v rest, s.pending = .write n v :: rest ∧
        step s = regWrite n v { s with pending := rest }) ∨
      (∃ rest, s.pending = .hardReset :: rest ∧
        step s = .next (State.resetBlock { s with pending := rest })) := by
  unfold step performNext
  cases h : s.pending with
  | nil => exact .inl ⟨rfl, rfl⟩
  | cons e rest =>
    refine .inr ?_
    cases e with
    | read n =>
      refine .inl ⟨n, rest, rfl, ?_⟩
      simp only [perform, regRead]
      cases regAt n with
      | none => rfl
      | some r => cases r <;> rfl
    | write n v => exact .inr (.inl ⟨n, v, rest, rfl, rfl⟩)
    | hardReset => exact .inr (.inr ⟨rest, rfl, rfl⟩)

/-- A mapped register that is a byte of a buffer stands at its own number (R46 to R50). -/
theorem bufferReg_eq {k j : Nat} {b : Buffer} (h : bufferReg k = some (.byte b j)) :
    j = k ∧ b.covers k = true := by
  unfold bufferReg at h
  split_ifs at h <;> simp_all

end Sys2Proof.Machine
end

