-- ==== Sys2Proof/Laws/Commands.lean ====
section
/-! SUPPORT. What each command can do, said once: an equation where it does one thing, the cases where it does
several. Later proofs cite these and unfold no meaning. Also the fields of a command word and the decoder's check of
them. -/

namespace Sys2Proof

/-! ### The command word -/

/-- The value of two fields put together. -/
theorem toNat_append_byte {n : Nat} (x : BitVec n) (y : Byte) : (x ++ y).toNat = 256 * x.toNat + y.toNat := by
  rw [BitVec.toNat_append, ← Nat.shiftLeft_add_eq_or_of_lt y.isLt, Nat.shiftLeft_eq]
  omega

/-- Every word is its four fields put together (R90). -/
theorem word_eq_fields (w : Word) : w = zField w ++ bField w ++ aField w ++ opField w := by
  apply BitVec.eq_of_toNat_eq
  have := w.isLt
  simp only [toNat_append_byte, zField, bField, aField, opField, BitVec.extractLsb'_toNat,
    Nat.shiftRight_eq_div_pow]
  omega

theorem opField_commandWord (op a b : Byte) : opField (commandWord op a b) = op := by
  apply BitVec.eq_of_toNat_eq
  simp only [opField, commandWord, BitVec.extractLsb'_toNat, toNat_append_byte, Nat.shiftRight_eq_div_pow]
  omega

theorem aField_commandWord (op a b : Byte) : aField (commandWord op a b) = a := by
  apply BitVec.eq_of_toNat_eq
  simp only [aField, commandWord, BitVec.extractLsb'_toNat, toNat_append_byte, Nat.shiftRight_eq_div_pow]
  omega

theorem bField_commandWord (op a b : Byte) : bField (commandWord op a b) = b := by
  apply BitVec.eq_of_toNat_eq
  simp only [bField, commandWord, BitVec.extractLsb'_toNat, toNat_append_byte, Nat.shiftRight_eq_div_pow]
  omega

theorem zField_commandWord (op a b : Byte) : zField (commandWord op a b) = 0#8 := by
  apply BitVec.eq_of_toNat_eq
  simp only [zField, commandWord, BitVec.extractLsb'_toNat, toNat_append_byte, Nat.shiftRight_eq_div_pow]
  omega

/-- What passing the checks of R91 says. -/
theorem checkFields_ok {w : Word} {aMask bMask : Byte} {i j : Instr}
    (h : checkFields w aMask bMask i = .ok j) :
    i = j ∧ zField w = 0#8 ∧ aField w &&& ~~~aMask = 0#8 ∧ bField w &&& ~~~bMask = 0#8 := by
  unfold checkFields at h
  split_ifs at h
  simp_all

end Sys2Proof

namespace Sys2Proof.Machine

/-! ### The build commands -/

theorem cmdPayload_length_le (code : Byte) (hv : Bool) (val mod : BitVec 16) :
    (cmdPayload code hv val mod).length ≤ 19 := by
  rw [cmdPayload_length]; split <;> decide

/-- PACK: a frame that is too long, or a frame built (R144). -/
theorem execPack_cases (s : State) :
    (32 < frameLength s.txpLen.toNat s.ctrl ∧
      exec .pack s = .next { s with err := setBit s.err 2, txfLen := 0#6, result := 0#32 }) ∨
    (frameLength s.txpLen.toNat s.ctrl ≤ 32 ∧ exec .pack s = .next { s with
      buf := s.buf.writeBytes Config.txfBase
        (frameBytes s.typeByte s.invAddr s.dtuAddr s.frameId
          (s.buf.readBytes Config.txpBase s.txpLen.toNat) s.ctrl)
      txfLen := BitVec.ofNat 6 (frameLength s.txpLen.toNat s.ctrl)
      result := BitVec.ofNat 32 (frameLength s.txpLen.toNat s.ctrl) }) := by
  rcases Nat.lt_or_ge 32 (frameLength s.txpLen.toNat s.ctrl) with h | h
  · exact .inl ⟨h, congrArg _ (State.pack_of_lt s h)⟩
  · exact .inr ⟨h, congrArg _ (State.pack_of_le s h)⟩

/-- A build changes the buffers, TXPLEN, TXFLEN and RESULT alone. -/
theorem State.build_frame (t : Byte) (p : List Byte) (s : State) (h : p.length ≤ 19) :
    s.build t p = { s with
      buf := (s.build t p).buf
      txpLen := (s.build t p).txpLen
      txfLen := (s.build t p).txfLen
      result := (s.build t p).result } := by
  rw [State.build_eq s h]

/-- A build leaves every byte outside its payload and TXF alone (R143). -/
theorem State.build_read_outside (t : Byte) (p : List Byte) (s : State) (h : p.length ≤ 19) {a : Nat}
    (h1 : a < 0x040 ∨ 0x040 + p.length ≤ a) (h2 : a < 0x060 ∨ 0x080 ≤ a) :
    (s.build t p).buf.read a = s.buf.read a := by
  rw [State.build_eq s h]
  rw [Memory.read_writeBytes_outside, Memory.read_writeBytes_outside]
  · simp only [Config.txpBase]; omega
  · rw [frameBytes_length]
    simp only [Memory.readBytes_length, frameLength, Config.txfBase, BitVec.toNat_ofNat]
    omega

theorem execBldinfo_eq (s : State) :
    exec .bldinfo s = .next (s.build Config.typeInfo (infoPayload s.epoch)) := rfl

theorem execBldcmd_eq (a b : Byte) (s : State) :
    exec (.bldcmd a b) s =
      .next (s.build Config.typeCtrl (cmdPayload a (b.getLsbD 0) s.value s.modifier)) := rfl

theorem execBldlim_eq (b : Byte) (s : State) :
    exec (.bldlim b) s = .next (State.build Config.typeCtrl
      (cmdPayload Config.cmdSetPowerLimit true s.value (limitModifier (b.getLsbD 0) (b.getLsbD 1)))
      { s with modifier := limitModifier (b.getLsbD 0) (b.getLsbD 1) }) := rfl

/-! ### Identity and parsing -/

/-- `prefix4` of a number below 10000 (R160). -/
theorem prefixLoop_of_lt (fuel : Nat) {p : Nat} (h : p < 10000) : prefixLoop fuel p = p := by
  cases fuel with
  | zero => rfl
  | succ n => rw [prefixLoop, if_neg (by omega)]

/-- The family of a serial by its prefix (R161). -/
theorem familyOf_eq_some {n : Nat} {f : Family} :
    familyOf n = some f ↔
      prefix4 n = match f with
        | .family1 => 1121
        | .family2 => 1141
        | .family3 => 1161 := by
  unfold familyOf
  split_ifs <;> cases f <;> simp_all

/-- IDENT: no family, or the family's schema loaded (R162). -/
theorem execIdent_cases (s : State) :
    (familyOf s.serial = none ∧ exec .ident s = .next s.identFail) ∨
      ∃ f, familyOf s.serial = some f ∧ exec .ident s = .next (s.identLoad f) := by
  simp only [exec, execIdent]
  cases familyOf s.serial with
  | none => exact .inl ⟨rfl, rfl⟩
  | some f => exact .inr ⟨f, rfl, rfl⟩

/-- FIELD: out of range, or the field's value (R166). -/
theorem execField_cases (a b : Byte) (s : State) :
    ((b.toNat = 0 ∨ 4 < b.toNat ∨ s.asmLen.toNat < a.toNat + b.toNat) ∧
      exec (.field a b) s = .next { s with result := 0#32, err := setBit s.err 4 }) ∨
    (¬(b.toNat = 0 ∨ 4 < b.toNat ∨ s.asmLen.toNat < a.toNat + b.toNat) ∧
      exec (.field a b) s = .next { s with
        result := fieldValue s.asmBytes a.toNat b.toNat (validMask s.timedOut) }) := by
  simp only [exec, execField]
  split_ifs with h
  · exact .inl ⟨h, rfl⟩
  · exact .inr ⟨h, rfl⟩

/-! ### Reassembly -/

/-- The payload of the raw frame has 16 bytes (R101). -/
theorem unpack_rawFrame_payload_length (s : State) : (unpack s.rawFrame).payload.length = 16 := by
  rw [unpack_rawFrame]; simp

/-- ABSORB: a bad frame dropped, or a good one stored (R184). -/
theorem execAbsorb_cases (s : State) :
    (fragmentOk (unpack s.rawFrame) = false ∧
      exec .absorb s = .next { s with status := setBit s.status 1, result := 0#32 }) ∨
    (fragmentOk (unpack s.rawFrame) = true ∧
      exec .absorb s = .next { s.absorbGood (unpack s.rawFrame) with
        result := satisfiedResult (s.absorbGood (unpack s.rawFrame)).outst }) := by
  cases h : fragmentOk (unpack s.rawFrame) with
  | true => exact .inr ⟨rfl, by simp only [exec, execAbsorb, if_pos h]⟩
  | false => exact .inl ⟨rfl, by simp only [exec, execAbsorb, h]; rfl⟩

/-- ASSEMBLE (R188). -/
theorem execAssemble_eq (s : State) :
    exec .assemble s = .next { s with
      asmLen := BitVec.ofNat 7 s.asmLength
      result := BitVec.ofNat 32 s.asmLength
      draws := s.draws + missingBelow s.coll s.asmLength
      buf := s.buf.writeBytes Config.asmBase ((List.range s.asmLength).map s.assembledByte)
      err := if s.outst = 0#4 then s.err else setBit s.err 5 } := by
  simp only [exec, execAssemble, State.flagIncomplete_eq, State.writeBuf]

/-- VERIFY: a match, or a mismatch that resets the reassembly state (R190). -/
theorem execVerify_cases (s : State) :
    (crc16ok s.asmBytes = true ∧
      exec .verify s = .next { s with status := setBit s.status 0, result := 1#32 }) ∨
    (crc16ok s.asmBytes = false ∧ exec .verify s = .next { s with
      status := setBit s.status 2, result := 0#32
      outst := BitVec.ofNat 4 (2 ^ s.nfrag.toNat - 1), coll := 0#4 }) := by
  cases h : crc16ok s.asmBytes with
  | true => exact .inl ⟨rfl, by simp only [exec, execVerify, if_pos h]; rfl⟩
  | false => exact .inr ⟨rfl, by simp only [exec, execVerify, h]; rfl⟩

/-- The assembled length fits ASMLEN (R193). -/
theorem State.asmLength_lt (s : State) : s.asmLength < 128 := by
  have := s.totLen.isLt
  unfold State.asmLength
  omega

end Sys2Proof.Machine
end

