-- ==== Sys2Proof/Laws/PerInstr.lean ====
section
/-! SUPPORT. A statement per command (R92, R104): the word of a well-formed command matches the row of the command
table that carries its mnemonic. One lemma for each constructor. -/

namespace Sys2Proof.Laws

/-- The word of a well-formed command matches its own row of the command table (R92). -/
def RowMatch.Statement (i : Instr) : Prop :=
  i.wellFormed = true →
    ∃ r ∈ commandTable, r.mnemonic = i.mnemonic ∧ encode i &&& r.mask = r.pattern

/-- The mask of a row acts on each field of the command word apart. -/
theorem commandWord_and (op a b z' b' a' op' : Byte) :
    commandWord op a b &&& (z' ++ b' ++ a' ++ op') = 0#8 ++ (b &&& b') ++ (a &&& a') ++ (op &&& op') := by
  have h1 := BitVec.and_append (x₁ := 0#8 ++ b ++ a) (x₂ := z' ++ b' ++ a') (y₁ := op) (y₂ := op')
  have h2 := BitVec.and_append (x₁ := 0#8 ++ b) (x₂ := z' ++ b') (y₁ := a) (y₂ := a')
  have h3 := BitVec.and_append (x₁ := 0#8) (x₂ := z') (y₁ := b) (y₂ := b')
  rw [h3, BitVec.zero_and] at h2
  rw [h2] at h1
  exact h1

/-- A command without operands matches its row: the row's mask covers every bit. -/
theorem RowMatch.of_pattern {i : Instr} (h : ⟨i.mnemonic, encode i, 0xFFFFFFFF#32⟩ ∈ commandTable) :
    RowMatch.Statement i :=
  fun _ => ⟨_, h, rfl, by rw [show 0xFFFFFFFF#32 = BitVec.allOnes 32 from rfl, BitVec.and_allOnes]⟩

theorem RowMatch.nop : RowMatch.Statement .nop := RowMatch.of_pattern (by decide)

theorem RowMatch.sreset : RowMatch.Statement .sreset := RowMatch.of_pattern (by decide)

theorem RowMatch.c16clr : RowMatch.Statement .c16clr := RowMatch.of_pattern (by decide)

theorem RowMatch.c16upd (a : Byte) : RowMatch.Statement (.c16upd a) := fun _ =>
  ⟨⟨"C16UPD", 0x00000011#32, 0xFFFF00FF#32⟩, by decide, rfl, by
    simpa [encode] using commandWord_and 0x11#8 a 0#8 0xFF#8 0xFF#8 0x00#8 0xFF#8⟩

theorem RowMatch.c8clr : RowMatch.Statement .c8clr := RowMatch.of_pattern (by decide)

theorem RowMatch.c8upd (a : Byte) : RowMatch.Statement (.c8upd a) := fun _ =>
  ⟨⟨"C8UPD", 0x00000013#32, 0xFFFF00FF#32⟩, by decide, rfl, by
    simpa [encode] using commandWord_and 0x13#8 a 0#8 0xFF#8 0xFF#8 0x00#8 0xFF#8⟩

theorem RowMatch.pack : RowMatch.Statement .pack := RowMatch.of_pattern (by decide)

theorem RowMatch.bldinfo : RowMatch.Statement .bldinfo := RowMatch.of_pattern (by decide)

theorem RowMatch.bldcmd (a b : Byte) : RowMatch.Statement (.bldcmd a b) := fun h =>
  ⟨⟨"BLDCMD", 0x00000022#32, 0xFFFE00FF#32⟩, by decide, rfl, by
    have hb : b &&& 0xFE#8 = 0#8 := by simpa [Instr.wellFormed] using h
    simpa [encode, hb] using commandWord_and 0x22#8 a b 0xFF#8 0xFE#8 0x00#8 0xFF#8⟩

theorem RowMatch.bldlim (b : Byte) : RowMatch.Statement (.bldlim b) := fun h =>
  ⟨⟨"BLDLIM", 0x00000023#32, 0xFFFCFFFF#32⟩, by decide, rfl, by
    have hb : b &&& 0xFC#8 = 0#8 := by simpa [Instr.wellFormed] using h
    simpa [encode, hb] using commandWord_and 0x23#8 0#8 b 0xFF#8 0xFC#8 0xFF#8 0xFF#8⟩

theorem RowMatch.ident : RowMatch.Statement .ident := RowMatch.of_pattern (by decide)

theorem RowMatch.field (a b : Byte) : RowMatch.Statement (.field a b) := fun _ =>
  ⟨⟨"FIELD", 0x00000031#32, 0xFF0000FF#32⟩, by decide, rfl, by
    simpa [encode] using commandWord_and 0x31#8 a b 0xFF#8 0x00#8 0x00#8 0xFF#8⟩

theorem RowMatch.rstasm : RowMatch.Statement .rstasm := RowMatch.of_pattern (by decide)

theorem RowMatch.absorb : RowMatch.Statement .absorb := RowMatch.of_pattern (by decide)

theorem RowMatch.assemble : RowMatch.Statement .assemble := RowMatch.of_pattern (by decide)

theorem RowMatch.verify : RowMatch.Statement .verify := RowMatch.of_pattern (by decide)

theorem RowMatch.asmzero : RowMatch.Statement .asmzero := RowMatch.of_pattern (by decide)

end Sys2Proof.Laws
end

