-- ==== Sys2Proof/Laws/RegMap.lean ====
section
/-! SUPPORT. The register map of R71, said once: which numbers hold a byte of which buffer, which are unmapped, that a
mapped register stands at its own number, and what a load sees of a store. -/

namespace Sys2Proof.Machine

theorem Buffer.covers_iff (b : Buffer) (k : Nat) :
    b.covers k = true ↔ b.base ≤ k ∧ k < b.base + b.size := by
  simp [Buffer.covers]

/-- The numbers of each buffer, as R71 writes them. -/
theorem Buffer.range (b : Buffer) :
    (b.base, b.size) = match b with
      | .txp => (0x040, 21)
      | .txf => (0x060, 32)
      | .rxf => (0x080, 32)
      | .asm => (0x0C0, 64)
      | .slot => (0x100, 64) := by
  cases b <;> rfl

/-- The buffers do not overlap: a number that one covers no other covers. -/
theorem Buffer.covers_unique {b : Buffer} {k : Nat} (h : b.covers k = true) (b' : Buffer) :
    b'.covers k = decide (b' = b) := by
  rw [Bool.eq_iff_iff, decide_eq_true_iff, Buffer.covers_iff]
  rw [Buffer.covers_iff] at h
  cases b <;> cases b' <;> simp only [Buffer.base, Buffer.size, Config.txpBase, Config.txpMax,
    Config.txfBase, Config.txMax, Config.rxfBase, Config.rawLen, Config.asmBase, Config.asmMax,
    Config.slotBase, Config.nslot, Config.fragPayload, reduceCtorEq, iff_true, iff_false] at h ⊢ <;> omega

/-- A buffer's number holds that buffer's byte. -/
theorem bufferReg_of_covers {b : Buffer} {k : Nat} (h : b.covers k = true) :
    bufferReg k = some (.byte b k) := by
  simp only [bufferReg, Buffer.covers_unique h]
  cases b <;> rfl

theorem regAt_of_covers {b : Buffer} {n : RegNum} (h : b.covers n.toNat = true) :
    regAt n = some (.byte b n.toNat) := by
  rw [regAt, bufferReg_of_covers h]

/-- A number outside every buffer holds what the named rows of R71 say. -/
theorem regAt_of_not_buffer {n : RegNum} (h : bufferReg n.toNat = none) :
    regAt n = namedReg n.toNat := by
  rw [regAt, h]

theorem bufferReg_none {k : Nat} (h : ∀ b : Buffer, b.covers k = false) : bufferReg k = none := by
  simp [bufferReg, h]

/-- Every byte register of R71 is the byte of a buffer that covers it. -/
theorem ByteRegister.covered {n : RegNum} (h : ByteRegister n) :
    ∃ b : Buffer, b.covers n.toNat = true := by
  simp only [Buffer.covers_iff]
  rcases h with h | h | h
  · exact ⟨.txp, by simp only [Buffer.base, Buffer.size, Config.txpBase, Config.txpMax]; omega⟩
  · by_cases hx : n.toNat < 0x080
    · exact ⟨.txf, by simp only [Buffer.base, Buffer.size, Config.txfBase, Config.txMax]; omega⟩
    · exact ⟨.rxf, by simp only [Buffer.base, Buffer.size, Config.rxfBase, Config.rawLen]; omega⟩
  · by_cases hx : n.toNat < 0x100
    · exact ⟨.asm, by simp only [Buffer.base, Buffer.size, Config.asmBase, Config.asmMax]; omega⟩
    · exact ⟨.slot, by
        simp only [Buffer.base, Buffer.size, Config.slotBase, Config.nslot, Config.fragPayload]; omega⟩

/-- A covered number is a byte register of R71. -/
theorem byteRegister_of_covers {b : Buffer} {n : RegNum} (h : b.covers n.toNat = true) :
    ByteRegister n := by
  rw [Buffer.covers_iff] at h
  have := Buffer.range b
  cases b <;> simp only [Prod.mk.injEq] at this <;> rw [this.1, this.2] at h <;>
    simp only [ByteRegister] <;> omega

/-- A number that no row of R71 names has no named register. -/
theorem namedReg_eq_none {k : Nat} (h : (0x007 ≤ k ∧ k ≤ 0x00F) ∨ (0x01C ≤ k ∧ k ≤ 0x01F) ∨ k = 0x022 ∨
    k = 0x023 ∨ 0x02B ≤ k) : namedReg k = none := by
  unfold namedReg
  split
  case h_29 => rfl
  all_goals (exfalso; omega)

/-- The unmapped numbers of R71 hold no register. -/
theorem Unmapped.regAt {n : RegNum} (h : Unmapped n) : Sys2Proof.Machine.regAt n = none := by
  have hb : bufferReg n.toNat = none := bufferReg_none fun b => by
    by_contra hc
    rw [Bool.not_eq_false] at hc
    have hr := byteRegister_of_covers hc
    unfold ByteRegister at hr
    unfold Unmapped at h
    omega
  rw [regAt_of_not_buffer hb]
  refine namedReg_eq_none ?_
  unfold Unmapped at h
  omega

/-- A named register stands at its own number. -/
theorem namedReg_number {k : Nat} {r : Reg} (h : namedReg k = some r) : r.number.toNat = k := by
  unfold namedReg at h
  split at h
  case h_29 => exact absurd h (by simp)
  all_goals (obtain rfl := Option.some.inj h; rfl)

/-- A mapped register stands at its own number (R22, R71). -/
theorem regAt_number {n : RegNum} {r : Reg} (h : regAt n = some r) : r.number = n := by
  apply BitVec.eq_of_toNat_eq
  unfold regAt at h
  cases hb : bufferReg n.toNat with
  | none =>
    rw [hb] at h
    exact namedReg_number h
  | some r' =>
    rw [hb] at h
    obtain rfl := Option.some.inj h
    have := n.isLt
    cases r' with
    | byte b j =>
      obtain ⟨rfl, _⟩ := bufferReg_eq hb
      simp only [Reg.number, BitVec.toNat_ofNat]
      omega
    | _ => unfold bufferReg at hb; split_ifs at hb <;> simp at hb

/-- The byte of a buffer at a number is the one that the buffers hold under that number. -/
theorem regAt_byte {n : RegNum} {b : Buffer} {k : Nat} (h : regAt n = some (.byte b k)) :
    k = n.toNat ∧ b.covers n.toNat = true := by
  unfold regAt at h
  cases hb : bufferReg n.toNat with
  | none =>
    rw [hb] at h
    exfalso
    dsimp only at h
    unfold namedReg at h
    split at h <;> simp at h
  | some r' =>
    rw [hb] at h
    obtain rfl := Option.some.inj h
    exact bufferReg_eq hb

/-- A store to a register is not seen in another register. -/
theorem Reg.load_store_of_ne {r r' : Reg} (v : Word) (s : State) (hne : r ≠ r')
    (hb : ∀ b k b' k', r = .byte b k → r' = .byte b' k' → k ≠ k') :
    r'.load (r.store v s) = r'.load s := by
  cases r with
  | fragId i =>
    cases r' with
    | fragId j => fin_cases i <;> fin_cases j <;> first | rfl | exact absurd rfl hne
    | _ => fin_cases i <;> rfl
  | byte b k =>
    cases r' with
    | byte b' k' =>
      simp only [Reg.load, Reg.store, State.writeBuf, Memory.writeBytes_cons, Memory.writeBytes_nil]
      rw [Memory.read_write_of_ne _ _ (hb b k b' k' rfl rfl).symm]
    | _ => rfl
  | _ => cases r' <;> first | rfl | exact absurd rfl hne

/-- An ERR flag is seen in ERR alone. -/
theorem Reg.load_flagErr {r : Reg} (s : State) (f : ErrFlag) (h : r ≠ .err) :
    r.load (s.flagErr f) = r.load s := by
  cases r <;> first | rfl | exact absurd rfl h

end Sys2Proof.Machine
end

