-- ==== Sys2Proof/Tests/Slice0.lean ====
section
/-! SUPPORT. Small tests: ill-formed terms refused, words written out from R92 and R104 decoded, one step of each
command on the vectors of 95_test_vectors.md, and for every obligation with hypotheses a state and operands that meet
them. Every expected value is the spec's. -/

namespace Sys2Proof.Tests

open Sys2Proof.Machine

-- One test after the other: each keeps a thread with a large stack of its own, and many at once run out of memory.
set_option Elab.async false

/-! ### Well-formedness (R91, R93) -/

theorem test_illformed_bldcmd_bit1 : (Instr.bldcmd 0x00#8 0x02#8).wellFormed = false := by decide
theorem test_illformed_bldcmd_bit7 : (Instr.bldcmd 0xFF#8 0x81#8).wellFormed = false := by decide
theorem test_illformed_bldlim_bit2 : (Instr.bldlim 0x04#8).wellFormed = false := by decide
theorem test_illformed_bldlim_bit7 : (Instr.bldlim 0x83#8).wellFormed = false := by decide
theorem test_wellformed_field_any : (Instr.field 0xFF#8 0xFF#8).wellFormed = true := by decide

/-! ### Decoding: one word for each constructor, bits 31..24 Z, 23..16 B, 15..8 A, 7..0 OP (R90, R104) -/

theorem test_decode_nop : decode 0b00000000_00000000_00000000_00000000#32 = .ok .nop := by decide
theorem test_decode_sreset : decode 0b00000000_00000000_00000000_00000001#32 = .ok .sreset := by decide
theorem test_decode_c16clr : decode 0b00000000_00000000_00000000_00010000#32 = .ok .c16clr := by decide
theorem test_decode_c16upd : decode 0b00000000_00000000_00110001_00010001#32 = .ok (.c16upd 0x31#8) := by
  decide
theorem test_decode_c8clr : decode 0b00000000_00000000_00000000_00010010#32 = .ok .c8clr := by decide
theorem test_decode_c8upd : decode 0b00000000_00000000_00110010_00010011#32 = .ok (.c8upd 0x32#8) := by
  decide
theorem test_decode_pack : decode 0b00000000_00000000_00000000_00100000#32 = .ok .pack := by decide
theorem test_decode_bldinfo : decode 0b00000000_00000000_00000000_00100001#32 = .ok .bldinfo := by decide
theorem test_decode_bldcmd : decode 0b00000000_00000001_00001011_00100010#32 = .ok (.bldcmd 11#8 1#8) := by
  decide
theorem test_decode_bldlim : decode 0b00000000_00000010_00000000_00100011#32 = .ok (.bldlim 2#8) := by decide
theorem test_decode_ident : decode 0b00000000_00000000_00000000_00110000#32 = .ok .ident := by decide
theorem test_decode_field : decode 0b00000000_00000100_00011101_00110001#32 = .ok (.field 29#8 4#8) := by
  decide
theorem test_decode_rstasm : decode 0b00000000_00000000_00000000_01000000#32 = .ok .rstasm := by decide
theorem test_decode_absorb : decode 0b00000000_00000000_00000000_01000001#32 = .ok .absorb := by decide
theorem test_decode_assemble : decode 0b00000000_00000000_00000000_01000010#32 = .ok .assemble := by decide
theorem test_decode_verify : decode 0b00000000_00000000_00000000_01000011#32 = .ok .verify := by decide
theorem test_decode_asmzero : decode 0b00000000_00000000_00000000_01000100#32 = .ok .asmzero := by decide

/-! Illegal words, V-H3, V-C8, and those at the end of 2.2 and 2.3 of 95_test_vectors.md, rejected by name. -/

theorem test_illegal_opcode : decode 0x00000002#32 = .error (.unassignedOpcode 0x02#8) := by decide
theorem test_illegal_all_ones : decode 0xFFFFFFFF#32 = .error (.unassignedOpcode 0xFF#8) := by decide
theorem test_illegal_field_z : decode 0x01020031#32 = .error .nonzeroZ := by decide
theorem test_illegal_nop_a : decode 0x00000100#32 = .error .nonzeroA := by decide
theorem test_illegal_c16upd_b : decode 0x00010011#32 = .error .nonzeroB := by decide
theorem test_illegal_bldcmd_b : decode 0x00020022#32 = .error .nonzeroB := by decide
theorem test_illegal_bldlim_b : decode 0x00040023#32 = .error .nonzeroB := by decide
theorem test_illegal_bldlim_a : decode 0x00000123#32 = .error .nonzeroA := by decide

/-- The table's bits of FIELD 0, 2 (R92, R104). -/
theorem test_decodeTableWord : decodeTableWord 24 0x020031 = some (.field 0#8 2#8) := by decide

/-! ### Helpers: what a command leaves, and small states -/

/-- Whether a command goes on and leaves a state of which `p` holds. -/
def leaves (o : Host.Outcome State Fault Refusal) (p : State → Bool) : Bool :=
  match o with
  | .next t => p t
  | .fault _ => false
  | .refused _ => false

/-- The example addresses and frame id of 95_test_vectors.md. -/
def addressed : State :=
  { State.reset with invAddr := 0x72220003#32, dtuAddr := 0x78563412#32, frameId := 0x80#8 }

/-- The family-1 schema of 2.4 of 95_test_vectors.md, after RSTASM. -/
def schema1 : State :=
  { State.reset with nfrag := 2#3, totLen := 32#7, fragId0 := 0x01#8, fragId1 := 0x82#8, outst := 3#4 }

/-- fragA of 2.4 of 95_test_vectors.md. -/
def fragA : List Byte :=
  [0x95, 0x72, 0x22, 0x00, 0x03, 0x72, 0x22, 0x00, 0x03, 0x01, 0x01, 0x02, 0x03, 0x04, 0x05, 0x06, 0x07,
    0x08, 0x09, 0x0A, 0x0B, 0x0C, 0x0D, 0x0E, 0x0F, 0x10, 0x84, 0x00, 0x00, 0x00, 0x00, 0x00]

/-- fragB of 2.4 of 95_test_vectors.md. -/
def fragB : List Byte :=
  [0x95, 0x72, 0x22, 0x00, 0x03, 0x72, 0x22, 0x00, 0x03, 0x82, 0x11, 0x12, 0x13, 0x14, 0x15, 0x16, 0x17,
    0x18, 0x19, 0x1A, 0x1B, 0x1C, 0x1D, 0x1E, 0x24, 0xE5, 0xD9, 0x00, 0x00, 0x00, 0x00, 0x00]

/-- fragAbad of 2.4 of 95_test_vectors.md: fragA with 0x85 for its CRC-8. -/
def fragAbad : List Byte := fragA.set 26 0x85

/-- The response buffer of 2.4 of 95_test_vectors.md, 01 02 ... 1E 24 E5. -/
def response : List Byte :=
  [0x01, 0x02, 0x03, 0x04, 0x05, 0x06, 0x07, 0x08, 0x09, 0x0A, 0x0B, 0x0C, 0x0D, 0x0E, 0x0F, 0x10, 0x11,
    0x12, 0x13, 0x14, 0x15, 0x16, 0x17, 0x18, 0x19, 0x1A, 0x1B, 0x1C, 0x1D, 0x1E, 0x24, 0xE5]

/-- The buffer registers from `a` on holding the bytes of `bs`. -/
def cells : Nat → List Byte → Memory
  | _, [] => []
  | a, v :: vs => if v = 0#8 then cells (a + 1) vs else (a, v) :: cells (a + 1) vs

/-- Both fragments collected, nothing awaited. -/
def collected1 : State := { schema1 with outst := 0#4, coll := 3#4, buf := cells 0x100 response }

/-- The response assembled. -/
def assembled1 : State := { collected1 with asmLen := 32#7, buf := cells 0x0C0 response ++ cells 0x100 response }

/-- A raw frame in RXF, nothing collected. -/
def loaded1 (r : List Byte) : State := { schema1 with buf := cells 0x080 r }

/-- A serial in SERIAL_HI and SERIAL_LO. -/
def withSerial (hi lo : Word) : State := { State.reset with serialHi := hi, serialLo := lo }

/-! ### One step of each command -/

/-- V-H1. -/
theorem test_nop : leaves (exec .nop schema1) (fun t => t == schema1) = true := by decide

/-- V-H2. -/
theorem test_sreset :
    leaves (exec .sreset { collected1 with status := 6#5, err := 0x3F#6, c16 := 0x4B37#16, ctrl := 0#1 })
      (fun t => t == State.reset) = true := by decide

/-- V-C2. -/
theorem test_c16clr :
    leaves (exec .c16clr { State.reset with c16 := 0x1241#16 }) (fun t => t == State.reset) = true := by decide

/-- R127, example. -/
theorem test_c16upd :
    leaves (exec (.c16upd 0x31#8) State.reset) (fun t => t == { State.reset with c16 := 0x947E#16 }) = true := by
  decide +kernel

/-- V-C3 and the step 0x0000, 0x01 of 2.1: the constant 0xA001 and the shift. -/
theorem test_c16step : crc16Step 0x0000#16 0x01#8 = 0xC0C1#16 ∧ crc16Step 0xFFFF#16 0xFF#8 = 0x00FF#16 := by
  decide +kernel

/-- V-C5. -/
theorem test_c8clr :
    leaves (exec .c8clr { State.reset with c8 := 0x31#8 }) (fun t => t == State.reset) = true := by decide

/-- R129, example: the second C8UPD. -/
theorem test_c8upd :
    leaves (exec (.c8upd 0x32#8) { State.reset with c8 := 0x31#8 })
      (fun t => t == { State.reset with c8 := 0x03#8 }) = true := by decide +kernel

/-- V-F2. -/
theorem test_pack :
    leaves (exec .pack { addressed with typeByte := 0x15#8 }) (fun t =>
      t.buf.readBytes 0x060 13 ==
        [0x15, 0x72, 0x22, 0x00, 0x03, 0x78, 0x56, 0x34, 0x12, 0x80, 0xFF, 0xFF, 0xCE] &&
      t.txfLen == 13#6 && t.result == 13#32 && t.err == 0#6) = true := by decide +kernel

/-- V-F4c: 21 payload bytes and the CRC-16 make 34. -/
theorem test_pack_too_long :
    leaves (exec .pack { addressed with txpLen := 21#5, txfLen := 32#6, result := 9#32 }) (fun t =>
      t.txfLen == 0#6 && t.result == 0#32 && t.err == 0x04#6) = true := by decide +kernel

/-- R146: the bytes of BLDINFO that depend on no parameter, and its length. -/
theorem test_bldinfo :
    leaves (exec .bldinfo addressed) (fun t =>
      t.txpLen == 13#5 && t.txfLen == 26#6 && t.result == 26#32 && t.typeByte == 0#8) = true := by decide +kernel

/-- V-F7. -/
theorem test_bldcmd :
    leaves (exec (.bldcmd 11#8 1#8) { addressed with value := 0x01F4#16 }) (fun t =>
      t.buf.readBytes 0x060 18 == [0x51, 0x72, 0x22, 0x00, 0x03, 0x78, 0x56, 0x34, 0x12, 0x80, 0x0B, 0x01,
        0xF4, 0x00, 0x00, 0xCF, 0xC1, 0x7A] && t.txpLen == 5#5 && t.txfLen == 18#6) = true := by
  decide +kernel

/-- V-F5. -/
theorem test_bldcmd_no_value :
    leaves (exec (.bldcmd 0#8 0#8) { addressed with value := 0x01F4#16 }) (fun t =>
      t.buf.readBytes 0x060 14 == [0x51, 0x72, 0x22, 0x00, 0x03, 0x78, 0x56, 0x34, 0x12, 0x80, 0x00, 0x40,
        0xBF, 0x75] && t.txpLen == 1#5 && t.txfLen == 14#6) = true := by decide +kernel

/-- V-F11: PERSIST is bit 8 of the modifier. -/
theorem test_bldlim :
    leaves (exec (.bldlim 2#8) { addressed with value := 0x0032#16, modifier := 0xFFFF#16 }) (fun t =>
      t.buf.readBytes 0x06A 8 == [0x0B, 0x00, 0x32, 0x01, 0x00, 0x9E, 0x21, 0x0D] &&
        t.modifier == 0x0100#16 && t.txfLen == 18#6) = true := by decide +kernel

/-- IDENT of serial 114172220003 (2.3 of 95_test_vectors.md): the registers that depend on no parameter. -/
theorem test_ident :
    leaves (exec .ident (withSerial 0x0000001A#32 0x9531D263#32)) (fun t =>
      t.family == 2#2 && t.result == 2#32 && t.totLen == 44#7 && t.nfrag == 3#3 && t.fragId3 == 0#8 &&
        t.err == 0#6) = true := by decide +kernel

/-- IDENT of serial 113100000000: no family, the schema stays. -/
theorem test_ident_unsupported :
    leaves (exec .ident { schema1 with serialHi := 0x0000001A#32, serialLo := 0x55490B00#32, family := 1#2 })
      (fun t => t.family == 0#2 && t.result == 0#32 && t.err == 0x01#6 && t.nfrag == 2#3) = true := by
  decide +kernel

/-- FIELD 0, 4 (2.3 of 95_test_vectors.md): the mask keeps 16 bits. -/
theorem test_field :
    leaves (exec (.field 0#8 4#8) assembled1) (fun t => t.result == 0x0304#32 && t.err == 0#6) = true := by
  decide +kernel

/-- FIELD 29, 4: one byte beyond ASMLEN. -/
theorem test_field_range :
    leaves (exec (.field 29#8 4#8) assembled1) (fun t => t.result == 0#32 && t.err == 0x10#6) = true := by
  decide +kernel

/-- V-R6. -/
theorem test_rstasm :
    leaves (exec .rstasm { State.reset with nfrag := 4#3, coll := 5#4 })
      (fun t => t.outst == 0xF#4 && t.coll == 0#4) = true := by decide

/-- R184, example. -/
theorem test_absorb :
    leaves (exec .absorb (loaded1 fragB)) (fun t =>
      t.outst == 1#4 && t.coll == 2#4 && t.result == 0#32 && t.status == 0#5 &&
        t.buf.readBytes 0x110 16 == (fragB.drop 10).take 16) = true := by decide +kernel

/-- V-R2. -/
theorem test_absorb_bad :
    leaves (exec .absorb { loaded1 fragAbad with outst := 1#4, coll := 2#4 }) (fun t =>
      t.outst == 1#4 && t.coll == 2#4 && t.result == 0#32 && t.status == 0x02#5) = true := by
  decide +kernel

/-- R188, example. -/
theorem test_assemble :
    leaves (exec .assemble collected1) (fun t =>
      t.buf.readBytes 0x0C0 32 == response && t.asmLen == 32#7 && t.result == 32#32 && t.err == 0#6 &&
        t.draws == 0) = true := by decide +kernel

/-- V-R5: the bytes of the collected position, and the flag. -/
theorem test_assemble_premature :
    leaves (exec .assemble { collected1 with outst := 2#4, coll := 1#4 }) (fun t =>
      t.asmLen == 32#7 && t.result == 32#32 && t.err == 0x20#6 && t.draws == 16) = true := by decide +kernel

/-- R190, example. -/
theorem test_verify :
    leaves (exec .verify assembled1) (fun t => t.status == 0x01#5 && t.result == 1#32 && t.coll == 3#4) = true := by
  decide +kernel

/-- V-R8, the last command. -/
theorem test_verify_mismatch :
    leaves (exec .verify { schema1 with outst := 0#4, coll := 3#4 }) (fun t =>
      t.status == 0x04#5 && t.result == 0#32 && t.outst == 3#4 && t.coll == 0#4) = true := by decide +kernel

/-- V-R12: the length is TOTLEN, not 16 * NFRAG. -/
theorem test_asmzero :
    leaves (exec .asmzero { assembled1 with nfrag := 1#3, totLen := 31#7, result := 7#32 }) (fun t =>
      t.asmLen == 31#7 && t.result == 7#32 && t.buf.readBytes 0x0DE 2 == [0x00, 0xE5]) = true := by
  decide +kernel

/-! ### One step of the machine, and the register interface (2.6 of 95_test_vectors.md) -/

/-- A step runs the word written to CMD. -/
theorem test_step :
    leaves (step (State.reset.withFetchWord 16 0x3111)) (fun t => t == { State.reset with c16 := 0x947E#16 }) =
      true := by decide +kernel

/-- V-M5 and V-M6: the whole value is compared. -/
theorem test_write_checked :
    leaves (regWrite 0x020#12 0x00000104#32 State.reset) (fun t => t.nfrag == 0#3 && t.err == 0x10#6) = true ∧
    leaves (regWrite 0x01A#12 21#32 State.reset) (fun t => t.txpLen == 21#5 && t.err == 0#6) = true := by
  decide +kernel

/-- V-M2, V-M3. -/
theorem test_write_refused :
    leaves (regWrite 0x00F#12 1#32 State.reset) (fun t => t == { State.reset with err := 0x08#6 }) = true ∧
    leaves (regWrite 0x0C0#12 1#32 State.reset) (fun t => t == { State.reset with err := 0x08#6 }) = true := by
  decide +kernel

/-- V-M8, V-M11: truncation, and two reads. -/
theorem test_write_truncates :
    leaves (regWrite 0x015#12 0x115#32 State.reset) (fun t => regRead 0x015#12 t == 0x15#32) = true ∧
      regRead 0x005#12 State.reset = 0xFFFF#32 ∧ regRead 0x140#12 State.reset = 0#32 := by decide +kernel

/-- R105: ON is BLDCMD 0; LIMIT 50, REL, PERSIST writes VALUE and then 0x00030023 to CMD. -/
theorem test_assembler :
    pseudoOn = [.write 0x000#12 0x00000022#32] ∧
      pseudoLimit 50#32 true true = [.write 0x018#12 50#32, .write 0x000#12 0x00030023#32] := by decide

/-! ### Witnesses: for each obligation with hypotheses, values that meet them, at the ends of their ranges -/

/-- A state in which the host has one event to come. -/
def awaiting (e : HostEvent) : State := { State.reset with pending := [e] }

theorem witness_DecodeAfterEncode :
    (Instr.bldcmd 0xFF#8 1#8).wellFormed = true ∧ (Instr.bldlim 3#8).wellFormed = true := by decide

theorem witness_EncodeAfterDecode :
    decode 0x00FFFF31#32 = .ok (.field 0xFF#8 0xFF#8) ∧ decode 0x0001FF22#32 = .ok (.bldcmd 0xFF#8 1#8) := by
  decide

theorem witness_WordSelectsItsTableRow :
    0x00030023#32 &&& 0xFFFCFFFF#32 = 0x00000023#32 ∧
      (⟨"BLDLIM", 0x00000023#32, 0xFFFCFFFF#32⟩ : CommandRow) ∈ commandTable ∧
      decode 0x00030023#32 = .ok (.bldlim 3#8) := by decide

theorem witness_IllegalWordOnlyFlagsOpcode :
    (∀ r ∈ commandTable, 0x00000002#32 &&& r.mask ≠ r.pattern) ∧
      (∀ r ∈ commandTable, 0x01020031#32 &&& r.mask ≠ r.pattern) ∧
      (∀ r ∈ commandTable, 0x00020022#32 &&& r.mask ≠ r.pattern) := by decide

theorem witness_StepRunsDecodedCommand :
    (awaiting (.write 0x000#12 0x00003111#32)).pending = .write 0x000#12 0x00003111#32 :: [] ∧
      decode 0x00003111#32 = .ok (.c16upd 0x31#8) := by decide

theorem witness_StepPerformsNextEvent :
    State.reset.pending = [] ∧ (awaiting (.read 0xFFF#12)).pending = .read 0xFFF#12 :: [] ∧
      (awaiting (.write 0x01A#12 22#32)).pending = .write 0x01A#12 22#32 :: [] ∧
      (awaiting .hardReset).pending = .hardReset :: [] := by decide

/-- The ends of the ranges of R71, and that no number falls under two of the clauses. -/
theorem witness_EveryNumberReadsItsRegister :
    ([0x040#12, 0x054#12, 0x060#12, 0x09F#12, 0x0C0#12, 0x13F#12].all
      fun n => decide (ByteRegister n ∧ ¬Unmapped n)) = true ∧
    ([0x007#12, 0x00F#12, 0x01C#12, 0x01F#12, 0x022#12, 0x023#12, 0x02B#12, 0x03F#12, 0x055#12, 0x05F#12,
      0x0A0#12, 0x0BF#12, 0x140#12, 0xFFF#12].all fun n => decide (Unmapped n ∧ ¬ByteRegister n)) = true ∧
    ([0x006#12, 0x010#12, 0x01B#12, 0x020#12, 0x021#12, 0x024#12, 0x02A#12].all
      fun n => decide (¬Unmapped n ∧ ¬ByteRegister n)) = true :=
  ⟨by decide +kernel, by decide +kernel, by decide +kernel⟩

theorem witness_WriteFollowsAccessKind :
    ([0x003#12, 0x012#12, 0x01B#12, 0x028#12, 0x02A#12, 0x060#12, 0x07F#12, 0x0C0#12, 0x13F#12].all
      fun n => decide (ReadOnly n ∧ ¬WritableByte n)) = true ∧
    ([0x040#12, 0x054#12, 0x080#12, 0x09F#12].all
      fun n => decide (WritableByte n ∧ ¬ReadOnly n ∧ ¬Unmapped n)) = true ∧
    ([0x01A#12, 0x020#12, 0x021#12].all fun n => decide (¬ReadOnly n ∧ ¬Unmapped n)) = true ∧
    collected1.buf.wf = true :=
  ⟨by decide +kernel, by decide +kernel, by decide +kernel, by decide +kernel⟩

/-- The greatest values that the checked registers take, and the least that they refuse. -/
theorem witness_WriteFollowsAccessKind_ranges :
    ((21#32).toNat ≤ 21 ∧ ¬(22#32).toNat ≤ 21) ∧ ((4#32).toNat ≤ 4 ∧ ¬(5#32).toNat ≤ 4) ∧
      ((64#32).toNat ≤ 64 ∧ ¬(65#32).toNat ≤ 64) := by decide

theorem witness_NoTwoNumbersAlias :
    regAt 0x13F#12 = some (.byte .slot 0x13F) ∧ (0x040#12 : RegNum) ≠ 0x054#12 ∧ 0x040#12 ≠ 0x000#12 ∧
      0x054#12 ≠ 0x002#12 ∧ leaves (regWrite 0x040#12 5#32 State.reset) (fun _ => true) = true := by
  decide +kernel

/-- Every disjunct is reached: no flag, and each flag that a command raises. -/
theorem witness_CommandRaisesAtMostOneFlag :
    leaves (exec .nop State.reset) (fun t => t.status == 0#5 && t.err == 0#6) = true ∧
    leaves (exec .verify assembled1) (fun t => t.status == 0x01#5) = true ∧
    leaves (exec .absorb (loaded1 fragAbad)) (fun t => t.status == 0x02#5) = true ∧
    leaves (exec .verify State.reset) (fun t => t.status == 0x04#5) = true ∧
    leaves (exec .ident State.reset) (fun t => t.err == 0x01#6) = true ∧
    leaves (exec .pack { State.reset with txpLen := 20#5 }) (fun t => t.err == 0x04#6) = true ∧
    leaves (exec (.field 0#8 1#8) State.reset) (fun t => t.err == 0x10#6) = true ∧
    leaves (exec .assemble schema1) (fun t => t.err == 0x20#6) = true := by decide +kernel

theorem witness_NoCommandReadsFlagsOrResult :
    (0x17#5 : BitVec 5).getLsbD 3 = assembled1.status.getLsbD 3 ∧
      Instr.field 0#8 2#8 ≠ .sreset ∧ (∃ t, exec (.field 0#8 2#8) assembled1 = .next t) ∧
      Instr.verify ≠ .sreset ∧ (∃ t, exec .verify { assembled1 with err := 1#6 } = .next t) ∧
      Instr.ident ≠ .sreset ∧ (∃ t, exec .ident State.reset = .next t) ∧
      ∃ t, exec .sreset { assembled1 with err := 1#6 } = .next t :=
  ⟨by decide, by decide, ⟨_, rfl⟩, by decide, ⟨_, rfl⟩, by decide, ⟨_, rfl⟩, _, rfl⟩

theorem witness_ResultWrittenOnlyByItsCommands :
    (∃ t, exec .nop State.reset = .next t) ∧ (∃ t, exec .c16clr State.reset = .next t) ∧
    (∃ t, exec (.c16upd 0xFF#8) State.reset = .next t) ∧ (∃ t, exec .c8clr State.reset = .next t) ∧
    (∃ t, exec (.c8upd 0xFF#8) State.reset = .next t) ∧ (∃ t, exec .rstasm State.reset = .next t) ∧
    ∃ t, exec .asmzero State.reset = .next t :=
  ⟨⟨_, rfl⟩, ⟨_, rfl⟩, ⟨_, rfl⟩, ⟨_, rfl⟩, ⟨_, rfl⟩, ⟨_, rfl⟩, ⟨_, rfl⟩⟩

theorem witness_StreamingRegistersApart :
    Instr.verify ≠ .sreset ∧ Instr.verify ≠ .c16clr ∧ (∀ a, Instr.verify ≠ .c16upd a) ∧
      Instr.verify ≠ .c8clr ∧ (∀ a, Instr.verify ≠ .c8upd a) ∧ ∃ t, exec .verify assembled1 = .next t :=
  ⟨by decide, by decide, by simp, by decide, by simp, _, rfl⟩

theorem witness_SetupHolds :
    Instr.bldlim 3#8 ≠ .sreset ∧ Instr.bldlim 3#8 ≠ .ident ∧ (∃ t, exec (.bldlim 3#8) addressed = .next t) ∧
      Instr.ident ≠ .sreset ∧ (∀ b, Instr.ident ≠ .bldlim b) ∧ ∃ t, exec .ident addressed = .next t :=
  ⟨by decide, by decide, ⟨_, rfl⟩, by decide, by simp, _, rfl⟩

theorem witness_FramesKeptByOtherCommands :
    assembled1.Legal ∧ Instr.asmzero ≠ .sreset ∧ Instr.asmzero ≠ .pack ∧ Instr.asmzero ≠ .bldinfo ∧
      (∀ a b, Instr.asmzero ≠ .bldcmd a b) ∧ (∀ b, Instr.asmzero ≠ .bldlim b) ∧
      ∃ t, exec .asmzero assembled1 = .next t :=
  ⟨by decide +kernel, by decide, by decide, by decide, by simp, by simp, _, rfl⟩

theorem witness_ClearCommandsSeed :
    0x01000010#32 &&& 0xFF#32 = 0x10#32 ∧ 0x01000010#32 ≠ 0x10#32 ∧
      0x00000110#32 &&& 0xFF#32 = 0x10#32 ∧ 0x00000110#32 ≠ 0x10#32 := by decide

theorem witness_StreamingEqualsFunction :
    ({ State.reset with pending := asmCommand .c16clr :: [asmCommand (.c16upd 0x31#8)] } : State).pending =
      asmCommand .c16clr :: [0x31#8].map (fun b => asmCommand (.c16upd b)) := by decide

/-- An address set up, with a payload length and the CRC-16 enable bit. -/
def packing (n : BitVec 5) (c : BitVec 1) : State := { addressed with txpLen := n, ctrl := c }

/-- The longest payloads that fit, and the shortest that do not. -/
theorem witness_PackBuildsFrame :
    (packing 19#5 1#1).buf.wf = true ∧
      10 + (packing 19#5 1#1).txpLen.toNat + 2 * (packing 19#5 1#1).ctrl.toNat + 1 = 32 ∧
      10 + (packing 20#5 1#1).txpLen.toNat + 2 * (packing 20#5 1#1).ctrl.toNat + 1 = 33 ∧
      10 + (packing 21#5 0#1).txpLen.toNat + 2 * (packing 21#5 0#1).ctrl.toNat + 1 = 32 := by decide

theorem witness_BldinfoBuildsRequest : addressed.buf.wf = true ∧ collected1.buf.wf = true := by
  decide +kernel

theorem witness_BldcmdBuildsControl :
    collected1.buf.wf = true ∧ (0#8).getLsbD 0 = false ∧ (1#8).getLsbD 0 = true ∧
      0x00020022#32 &&& 0xFF#32 = 0x22#32 ∧ 0x00020022#32 &&& 0xFFFE0000#32 ≠ 0#32 := by decide +kernel

/-- Words with the opcode of BLDLIM and the lowest bit of B[7:2], the lowest bit of A, the highest bit of Z. -/
theorem witness_BldlimBuildsLimit :
    { collected1 with value := 0xFFFF#16 }.buf.wf = true ∧
      0x00040023#32 &&& 0xFF#32 = 0x23#32 ∧ 0x00040023#32 &&& 0xFFFCFF00#32 ≠ 0#32 ∧
      0x00000123#32 &&& 0xFF#32 = 0x23#32 ∧ 0x00000123#32 &&& 0xFFFCFF00#32 ≠ 0#32 ∧
      0x80030023#32 &&& 0xFF#32 = 0x23#32 ∧ 0x80030023#32 &&& 0xFFFCFF00#32 ≠ 0#32 := by decide +kernel

theorem witness_PackIsRepeatable :
    (packing 19#5 1#1).Legal ∧ (∃ t, exec .pack (packing 19#5 1#1) = .next t) ∧
    (packing 20#5 1#1).Legal ∧ ∃ t, exec .pack (packing 20#5 1#1) = .next t :=
  ⟨by decide, ⟨_, rfl⟩, by decide, _, rfl⟩

theorem witness_Prefix4IsLeadingDigits :
    prefix4 9999 = 9999 ∧ prefix4 10000 = 1000 ∧ (18446744073709551615 < 2 ^ 64) ∧
      prefix4 18446744073709551615 = 1844 := by decide +kernel

/-- The table of 2.3 of 95_test_vectors.md. -/
theorem witness_FamilyBySerialRange :
    familyOf 1121 = some .family1 ∧ familyOf 11219 = some .family1 ∧ familyOf 11220 = none ∧
      familyOf 11419999 = some .family2 ∧ familyOf 1161999999999999999 = some .family3 ∧
      familyOf 11610000000000000000 = some .family3 ∧ 11610000000000000000 < 2 ^ 64 := by decide +kernel

theorem witness_IdentLoadsSchema :
    prefix4 (withSerial 0x1A#32 0x1DFC3E63#32).serial = 1121 ∧
      prefix4 (withSerial 0x1A#32 0x90E3D501#32).serial = 1141 ∧
      prefix4 (withSerial 0x1B#32 0x08196900#32).serial = 1161 ∧
      prefix4 (withSerial 0x1A#32 0x55490B00#32).serial = 1131 := by decide +kernel

/-- FIELD 31, 1 and FIELD 0, 4 are in range; FIELD 32, 1, FIELD 0, 0, FIELD 0, 5 and FIELD 255, 255 are not. -/
theorem witness_FieldReadsMaskedBigEndian :
    31 + (1#8).toNat ≤ assembled1.asmLen.toNat ∧ 0 + (4#8).toNat ≤ assembled1.asmLen.toNat ∧
      assembled1.asmLen.toNat < 32 + (1#8).toNat ∧ (0#8).toNat = 0 ∧ 4 < (5#8).toNat ∧
      assembled1.asmLen.toNat < (255#8).toNat + (255#8).toNat ∧
      ({ assembled1 with status := 0x08#5 } : State).status.getLsbD 3 = true := by decide

/-- A good frame for position 1, whose id position 0 does not expect, and a bad one. -/
theorem witness_AbsorbStoresGoodFragment :
    (loaded1 fragB).buf.wf = true ∧
      crc8Custom ((List.range 26).map fun k => (loaded1 fragB).buf.read (0x080 + k)) =
        (loaded1 fragB).buf.read 0x09A ∧
      schema1.fragId 1 = (loaded1 fragB).buf.read 0x089 ∧
      schema1.fragId 0 ≠ (loaded1 fragB).buf.read 0x089 ∧
      crc8Custom ((List.range 26).map fun k => (loaded1 fragAbad).buf.read (0x080 + k)) ≠
        (loaded1 fragAbad).buf.read 0x09A := by decide +kernel

theorem witness_AbsorbOrderDoesNotMatter :
    schema1.buf.wf = true ∧ [fragA, fragB].Perm [fragB, fragA] ∧ (∀ r ∈ [fragA, fragB], r.length = 32) ∧
      ([fragA, fragB].map fun r => r.getD 9 0#8).Nodup ∧ schema1.Partitioned ∧
      (∀ r ∈ [fragA, fragB], crc8Custom (r.take 26) = r.getD 26 0#8) ∧
      ∀ i : Fin 4, i.val < schema1.nfrag.toNat → schema1.fragId i ∈ [fragA, fragB].map fun r => r.getD 9 0#8 := by
  decide +kernel

/-- A retry of fragA with another payload byte and CRC-8: position 0 has two good frames, position 1 none, and a bad
frame stands between. -/
theorem witness_LastGoodFragmentWins :
    schema1.buf.wf = true ∧
      (∀ r ∈ [fragA, fragAbad, (fragA.set 25 0x11).set 26 0x85], r.length = 32) ∧
      ([fragA, fragAbad, (fragA.set 25 0x11).set 26 0x85].filter fun r =>
        crc8Custom (r.take 26) = r.getD 26 0#8 ∧ 0 < schema1.nfrag.toNat ∧ schema1.fragId 0 = r.getD 9 0#8).getLast? =
          some ((fragA.set 25 0x11).set 26 0x85) ∧
      ([fragA, fragAbad, (fragA.set 25 0x11).set 26 0x85].filter fun r =>
        crc8Custom (r.take 26) = r.getD 26 0#8 ∧ 1 < schema1.nfrag.toNat ∧ schema1.fragId 1 = r.getD 9 0#8) = [] := by
  decide +kernel

/-- Both fragments, the later position's first: `k` = 1 is not the last, `k` = 2 is. -/
theorem witness_ResultTellsLastFragment :
    schema1.buf.wf = true ∧ exec .rstasm { schema1 with outst := 0#4 } = .next schema1 ∧
      (∀ r ∈ [fragB, fragA], r.length = 32 ∧ crc8Custom (r.take 26) = r.getD 26 0#8) ∧
      ([fragB, fragA].map fun r => r.getD 9 0#8).Nodup ∧
      ([fragB, fragA].map fun r => r.getD 9 0#8).Perm
        (((List.finRange 4).filter fun i => i.val < schema1.nfrag.toNat).map schema1.fragId) ∧
      [fragB, fragA].length = 2 :=
  ⟨by decide, rfl, by decide +kernel, by decide +kernel, by decide +kernel, rfl⟩

theorem witness_ReassemblyChangesOnlyWhere :
    (loaded1 fragA).Legal ∧ (∃ t, exec .absorb (loaded1 fragA) = .next t) ∧
      collected1.Legal ∧ (∃ t, exec .assemble collected1 = .next t) :=
  ⟨by decide +kernel, ⟨_, rfl⟩, by decide +kernel, _, rfl⟩

/-- The last byte below the length comes from a collected position; the next address is outside. -/
theorem witness_AssembleConcatenatesCollected :
    collected1.buf.wf = true ∧ 31 < min (16 * collected1.nfrag.toNat) collected1.totLen.toNat ∧
      collected1.coll.getLsbD (31 / 16) = true ∧
      0x0C0 + min (16 * collected1.nfrag.toNat) collected1.totLen.toNat ≤ 0x0E0 := by decide +kernel

theorem witness_UnspecifiedBytesAreFreshDraws :
    { collected1 with coll := 1#4 }.buf.wf = true ∧
      ∃ t, exec .assemble { collected1 with coll := 1#4 } = .next t ∧ 16 < t.asmLen.toNat ∧
        ({ collected1 with coll := 1#4 } : State).coll.getLsbD (16 / 16) = false :=
  ⟨by decide +kernel, _, rfl, by decide +kernel, by decide⟩

theorem witness_AssembleIsIdempotent :
    collected1.Legal ∧ collected1.Partitioned ∧ collected1.outst = 0#4 ∧
      ∃ t, exec .assemble collected1 = .next t :=
  ⟨by decide +kernel, by decide, by decide, _, rfl⟩

/-- A matching buffer, and two that do not match: too short, and zero data. -/
theorem witness_VerifyChecksAssembledBuffer :
    crc16ok assembled1.asmBytes = true ∧ crc16ok { assembled1 with asmLen := 1#7 }.asmBytes = false ∧
      crc16ok { State.reset with asmLen := 32#7 }.asmBytes = false := by decide +kernel

theorem witness_AsmzeroZeroesSchemaLength :
    assembled1.buf.wf = true ∧ 31 < assembled1.totLen.toNat ∧ 0x0C0 + assembled1.totLen.toNat ≤ 0x0E0 := by
  decide +kernel

theorem witness_FreshBlockWorksAtOnce :
    (List.replicate 32 0#8).length = 32 ∧
      crc8Custom ((List.replicate 32 0#8).take 26) = (List.replicate 32 0#8).getD 26 0#8 := by decide +kernel

theorem witness_StepKeepsLegalState :
    { assembled1 with pending := [.write 0x000#12 0x44#32] }.Legal ∧
      ∃ t, step { assembled1 with pending := [.write 0x000#12 0x44#32] } = .next t :=
  ⟨by decide +kernel, _, rfl⟩

theorem witness_StepKeepsPartition :
    { collected1 with pending := [.write 0x000#12 0x43#32] }.Partitioned ∧
      leaves (step { collected1 with pending := [.write 0x000#12 0x43#32] }) (fun t => t.nfrag == 2#3) = true ∧
      leaves (exec .rstasm { State.reset with nfrag := 4#3, outst := 1#4, coll := 1#4 }) (fun _ => true) = true := by
  decide +kernel

end Sys2Proof.Tests
end

/-! PROOFS of the family 10_state: the values of the reset state (R54), which SRESET restores (R202). -/

namespace Sys2Proof.Machine

/-- R42, R54: the four FRAGID registers are fields of their own; each has reset value 0. -/
@[simp] theorem State.reset_fragId (i : Fin 4) : State.reset.fragId i = 0#8 :=
  match i with
  | 0 | 1 | 2 | 3 => rfl

/-- R46 to R50, R54: no byte is listed at reset, so every buffer byte reads as an unlisted one. -/
@[simp] theorem State.reset_buf_read (a : Nat) : State.reset.buf.read a = 0#8 :=
  Memory.read_nil a

/-- R202: SRESET always completes, and leaves the reset block. -/
theorem exec_sreset (s : State) : exec .sreset s = .next s.resetBlock := rfl

/-- Settles O47: the registers' values stand in the reset state itself; the FRAGID registers and the buffer bytes are
read through their accessors, and SRESET is `resetBlock`. -/
theorem resetValues : Obligations.ResetValues := by
  unfold Obligations.ResetValues
  refine ⟨rfl, rfl, rfl, rfl, rfl, rfl, rfl, rfl, rfl, rfl, rfl, rfl, rfl, rfl, rfl, rfl, rfl, rfl, rfl, rfl,
    ?fragIds, rfl, rfl, rfl, ?buffers, ?sreset⟩
  case fragIds => exact State.reset_fragId
  case buffers => exact State.reset_buf_read
  case sreset => exact exec_sreset

end Sys2Proof.Machine

/-! PROOFS of the family 20_memory: what `RegWrite` does at a number, by the access kind of its register (R21, R73). -/

namespace Sys2Proof.Machine

/-! ### A register write by access kind -/

/-- R73: a number that holds no register flags E_REG. -/
theorem regWrite_of_unmapped {n : RegNum} {v : Word} {s : State} (hn : regAt n = none) :
    regWrite n v s = .next (s.flagErr .eReg) := by
  simp only [regWrite, hn]

/-- R73: a write to CMD runs the word. -/
theorem regWrite_of_cmd {n : RegNum} {v : Word} {s : State} (hn : regAt n = some .cmd) :
    regWrite n v s = execWord v s := by
  simp only [regWrite, hn]

/-- CMD is the one write-only register of R71. -/
theorem Reg.access_eq_wo_iff (r : Reg) : r.access = .wo ↔ r = .cmd := by
  cases r with
  | byte b k => cases b <;> simp [Reg.access]
  | _ => simp [Reg.access]

/-- R73: a register that is not write-only takes the write itself. -/
theorem regWrite_of_mapped {n : RegNum} {v : Word} {s : State} {r : Reg} (hn : regAt n = some r)
    (hr : r.access ≠ .wo) : regWrite n v s = .next (r.write v s) := by
  have hcmd : r ≠ .cmd := mt (Reg.access_eq_wo_iff r).mpr hr
  rcases regWrite_cases n v s with ⟨hnone, _⟩ | ⟨hc, _⟩ | ⟨r', _, hr', hw⟩
  · simp [hn] at hnone
  · exact absurd (Option.some.inj (hn.symm.trans hc)) hcmd
  · obtain rfl := Option.some.inj (hn.symm.trans hr')
    exact hw

/-- R73: a read-only register flags E_REG. -/
theorem regWrite_of_ro {n : RegNum} {v : Word} {s : State} (r : Reg) (hn : regAt n = some r)
    (hr : r.access = .ro) : regWrite n v s = .next (s.flagErr .eReg) := by
  rw [regWrite_of_mapped hn (by simp [hr])]
  simp only [Reg.write, hr]

/-- R73: a plain register stores the value. -/
theorem regWrite_of_rw {n : RegNum} {v : Word} {s : State} (r : Reg) (hn : regAt n = some r)
    (hr : r.access = .rw) : regWrite n v s = .next (r.store v s) := by
  rw [regWrite_of_mapped hn (by simp [hr])]
  simp only [Reg.write, hr]

/-- R73: a checked register stores a value in its range; any other value flags E_RANGE. -/
theorem regWrite_of_rwChecked {n : RegNum} {v : Word} {s : State} (r : Reg) {max : Nat}
    (hn : regAt n = some r) (hr : r.access = .rwChecked max) :
    regWrite n v s = if v.toNat ≤ max then .next (r.store v s) else .next (s.flagErr .eRange) := by
  rw [regWrite_of_mapped hn (by simp [hr])]
  simp only [Reg.write, hr]
  by_cases hv : v.toNat ≤ max
  · rw [if_neg (by omega), if_pos hv]
  · rw [if_pos (by omega), if_neg hv]

/-! ### The ranges of R71 -/

/-- The read-only numbers of R71 hold read-only registers. -/
theorem ReadOnly.mapped {n : RegNum} (h : ReadOnly n) : ∃ r, regAt n = some r ∧ r.access = .ro := by
  have named : ∀ {k : RegNum} {r : Reg}, n.toNat = k.toNat → regAt k = some r → r.access = .ro →
      ∃ r, regAt n = some r ∧ r.access = .ro := by
    intro k r hk hr ha
    obtain rfl := BitVec.eq_of_toNat_eq hk
    exact ⟨r, hr, ha⟩
  have byte : ∀ b : Buffer, (∀ k, (Reg.byte b k).access = .ro) →
      (b.base ≤ n.toNat ∧ n.toNat < b.base + b.size) → ∃ r, regAt n = some r ∧ r.access = .ro :=
    fun b ha hc => ⟨_, regAt_of_covers ((b.covers_iff _).mpr hc), ha _⟩
  rcases h with h | h | h | h | h | h | h | h
  · exact named (k := 0x003#12) (r := .result) h rfl rfl
  · exact named (k := 0x012#12) (r := .family) h rfl rfl
  · exact named (k := 0x01B#12) (r := .txfLen) h rfl rfl
  · exact named (k := 0x028#12) (r := .outst) h rfl rfl
  · exact named (k := 0x029#12) (r := .coll) h rfl rfl
  · exact named (k := 0x02A#12) (r := .asmLen) h rfl rfl
  · exact byte .txf (fun _ => rfl) (by simp only [Buffer.base, Buffer.size, Config.txfBase, Config.txMax]; omega)
  · by_cases hs : n.toNat < 0x100
    · exact byte .asm (fun _ => rfl) (by
        simp only [Buffer.base, Buffer.size, Config.asmBase, Config.asmMax]; omega)
    · exact byte .slot (fun _ => rfl) (by
        simp only [Buffer.base, Buffer.size, Config.slotBase, Config.nslot, Config.fragPayload]; omega)

/-- The writable byte numbers of R71 hold the bytes of TXP and RXF. -/
theorem WritableByte.mapped {n : RegNum} (h : WritableByte n) :
    ∃ b, regAt n = some (.byte b n.toNat) ∧ (Reg.byte b n.toNat).access = .rw := by
  rcases h with h | h
  · refine ⟨.txp, regAt_of_covers ((Buffer.covers_iff _ _).mpr ?_), rfl⟩
    simp only [Buffer.base, Buffer.size, Config.txpBase, Config.txpMax]
    omega
  · refine ⟨.rxf, regAt_of_covers ((Buffer.covers_iff _ _).mpr ?_), rfl⟩
    simp only [Buffer.base, Buffer.size, Config.rxfBase, Config.rawLen]
    omega

/-- R73: an unmapped number and a read-only register both flag E_REG. -/
theorem regWrite_refused {n : RegNum} (v : Word) (s : State) (h : Unmapped n ∨ ReadOnly n) :
    regWrite n v s = .next (s.flagErr .eReg) := by
  rcases h with h | h
  · exact regWrite_of_unmapped h.regAt
  · obtain ⟨r, hn, hr⟩ := h.mapped
    exact regWrite_of_ro r hn hr

/-- R46, R48, R73: a byte of TXP or RXF stores the low 8 bits. -/
theorem regWrite_byte {n : RegNum} (v : Word) (s : State) (h : WritableByte n) :
    regWrite n v s = .next { s with buf := s.buf.write n.toNat (v.setWidth 8) } := by
  obtain ⟨b, hn, hr⟩ := h.mapped
  exact regWrite_of_rw _ hn hr

/-- Settles O10: each number's register and its access kind choose the rule of R73; the stores are read off
`Reg.store`, and the bytes are the read-after-write laws of the buffers. -/
theorem writeFollowsAccessKind : Obligations.WriteFollowsAccessKind := by
  unfold Obligations.WriteFollowsAccessKind
  intro v s
  refine ⟨regWrite_of_cmd rfl, fun _ h => regWrite_refused v s h,
    regWrite_of_rwChecked .txpLen rfl rfl, regWrite_of_rwChecked .nfrag rfl rfl,
    regWrite_of_rwChecked .totLen rfl rfl, regWrite_of_rw .status rfl rfl, regWrite_of_rw .err rfl rfl,
    regWrite_of_rw .ctrl rfl rfl, regWrite_of_rw .c16 rfl rfl, regWrite_of_rw .c8 rfl rfl,
    regWrite_of_rw .serialLo rfl rfl, regWrite_of_rw .serialHi rfl rfl, regWrite_of_rw .invAddr rfl rfl,
    regWrite_of_rw .dtuAddr rfl rfl, regWrite_of_rw .typeByte rfl rfl, regWrite_of_rw .frameId rfl rfl,
    regWrite_of_rw .epoch rfl rfl, regWrite_of_rw .value rfl rfl, regWrite_of_rw .modifier rfl rfl,
    regWrite_of_rw (.fragId 0) rfl rfl, regWrite_of_rw (.fragId 1) rfl rfl,
    regWrite_of_rw (.fragId 2) rfl rfl, regWrite_of_rw (.fragId 3) rfl rfl, ?bytes⟩
  case bytes =>
    intro n hn hwf
    refine ⟨_, regWrite_byte v s hn, ?self, ?others, rfl⟩
    case self => exact Memory.read_write_self hwf _ _
    case others => exact fun a ha => Memory.read_write_of_ne _ _ ha

end Sys2Proof.Machine

/-! PROOFS of the family 30_encoding: every legal word is the word of its command, so it matches a row of the command
table; a word that matches none is illegal (R92, R93). -/

namespace Sys2Proof

/-! ### The word of a decoded command -/

/-- R90, R91: a word with `Z` = 0 is put together from its opcode and its operands. -/
theorem word_eq_commandWord {w : Word} {n : Nat} (hop : (opField w).toNat = n) (hz : zField w = 0#8) :
    w = commandWord (BitVec.ofNat 8 n) (aField w) (bField w) := by
  have hn : opField w = BitVec.ofNat 8 n := by rw [← hop, BitVec.ofNat_toNat, BitVec.setWidth_eq]
  calc w = zField w ++ bField w ++ aField w ++ opField w := word_eq_fields w
    _ = commandWord (BitVec.ofNat 8 n) (aField w) (bField w) := by rw [hz, hn]; rfl

/-- R91: an operand that the command does not use is 0. -/
theorem eq_zero_of_unused {x : Byte} (h : x &&& ~~~0x00#8 = 0#8) : x = 0#8 :=
  BitVec.and_allOnes.symm.trans h

/-- R91, R93: the word of a command without operands that passes the checks has nothing but its opcode. -/
theorem eq_commandWord_of_plain {w : Word} {n : Nat} {i j : Instr} (hop : (opField w).toNat = n)
    (h : checkFields w 0x00#8 0x00#8 i = .ok j) : i = j ∧ commandWord (BitVec.ofNat 8 n) 0#8 0#8 = w := by
  obtain ⟨hij, hz, ha, hb⟩ := checkFields_ok h
  have hw := word_eq_commandWord hop hz
  rw [eq_zero_of_unused ha, eq_zero_of_unused hb] at hw
  exact ⟨hij, hw.symm⟩

/-- R91, R92: a word that decodes is the word of its command, which has no bit of `B` set that it does not name. The
cases are the decoder's rows: those with an operand one by one, then those without. -/
theorem wellFormed_and_encode_of_decode {w : Word} {i : Instr} (h : decode w = .ok i) :
    i.wellFormed = true ∧ encode i = w := by
  unfold decode at h
  split at h
  case h_4 hop | h_6 hop =>
    obtain ⟨rfl, hz, -, hb⟩ := checkFields_ok h
    have hw := word_eq_commandWord hop hz
    rw [eq_zero_of_unused hb] at hw
    exact ⟨rfl, hw.symm⟩
  case h_9 hop =>
    obtain ⟨rfl, hz, -, hb⟩ := checkFields_ok h
    exact ⟨beq_iff_eq.mpr hb, (word_eq_commandWord hop hz).symm⟩
  case h_10 hop =>
    obtain ⟨rfl, hz, ha, hb⟩ := checkFields_ok h
    have hw := word_eq_commandWord hop hz
    rw [eq_zero_of_unused ha] at hw
    exact ⟨beq_iff_eq.mpr hb, hw.symm⟩
  case h_12 hop =>
    obtain ⟨rfl, hz, -, -⟩ := checkFields_ok h
    exact ⟨rfl, (word_eq_commandWord hop hz).symm⟩
  case h_18 => simp at h
  all_goals
    next hop =>
      obtain ⟨rfl, hw⟩ := eq_commandWord_of_plain hop h
      exact ⟨rfl, hw⟩

/-! ### The rows of the command table -/

/-- R92: the word of every well-formed command matches the row with its mnemonic. -/
theorem Laws.RowMatch.all (i : Instr) : Laws.RowMatch.Statement i :=
  match i with
  | .nop => Laws.RowMatch.nop
  | .sreset => Laws.RowMatch.sreset
  | .c16clr => Laws.RowMatch.c16clr
  | .c16upd a => Laws.RowMatch.c16upd a
  | .c8clr => Laws.RowMatch.c8clr
  | .c8upd a => Laws.RowMatch.c8upd a
  | .pack => Laws.RowMatch.pack
  | .bldinfo => Laws.RowMatch.bldinfo
  | .bldcmd a b => Laws.RowMatch.bldcmd a b
  | .bldlim b => Laws.RowMatch.bldlim b
  | .ident => Laws.RowMatch.ident
  | .field a b => Laws.RowMatch.field a b
  | .rstasm => Laws.RowMatch.rstasm
  | .absorb => Laws.RowMatch.absorb
  | .assemble => Laws.RowMatch.assemble
  | .verify => Laws.RowMatch.verify
  | .asmzero => Laws.RowMatch.asmzero

/-- R92: a word that decodes matches the row of its command. -/
theorem row_of_decode {w : Word} {i : Instr} (h : decode w = .ok i) :
    ∃ r ∈ commandTable, r.mnemonic = i.mnemonic ∧ w &&& r.mask = r.pattern := by
  obtain ⟨hwf, rfl⟩ := wellFormed_and_encode_of_decode h
  exact Laws.RowMatch.all i hwf

/-! ### FIELD -/

/-- R90: the fields of a command word, put in place by shifts. -/
theorem commandWord_eq_or (op a b : Byte) :
    commandWord op a b = op.setWidth 32 ||| (a.setWidth 32 <<< 8) ||| (b.setWidth 32 <<< 16) := by
  refine BitVec.eq_of_getLsbD_eq fun i hi => ?_
  simp only [commandWord, BitVec.getLsbD_append, BitVec.getLsbD_or, BitVec.getLsbD_shiftLeft,
    BitVec.getLsbD_setWidth]
  grind

/-- R91: FIELD uses every bit of `A` and `B`, so its word is legal for all operands. -/
theorem decode_field (a b : Byte) : decode (commandWord 0x31#8 a b) = .ok (.field a b) := by
  simp [decode, checkFields, opField_commandWord, aField_commandWord, bField_commandWord, zField_commandWord]

end Sys2Proof

namespace Sys2Proof.Machine

/-- R93: a word that matches no row of the command table flags E_OPCODE alone. -/
theorem execWord_of_no_row {w : Word} (hw : ∀ r ∈ commandTable, w &&& r.mask ≠ r.pattern) (s : State) :
    execWord w s = .next (s.flagErr .eOpcode) := by
  rcases execWord_cases w s with ⟨i, hi, -⟩ | ⟨_, -, he⟩
  · obtain ⟨r, hr, -, hm⟩ := row_of_decode hi
    exact absurd hm (hw r hr)
  · exact he

/-- R28: a legal word runs its command. -/
theorem execWord_of_decode {w : Word} {i : Instr} (h : decode w = .ok i) (s : State) :
    execWord w s = exec i s := by
  simp only [execWord, h]

/-- R166: a bad offset or width flags E_RANGE and gives 0. -/
theorem execField_of_outOfRange {a b : Byte} {s : State}
    (h : b.toNat = 0 ∨ 4 < b.toNat ∨ s.asmLen.toNat < a.toNat + b.toNat) :
    exec (.field a b) s = .next { s with result := 0#32, err := setBit s.err 4 } := by
  rcases execField_cases a b s with ⟨_, he⟩ | ⟨hn, _⟩
  · exact he
  · exact absurd h hn

/-- Settles O5: a word that decodes matches the row of its command, so a word that matches none is illegal; the word
of FIELD decodes for all operands, and then the range check of R166 speaks. -/
theorem illegalWordOnlyFlagsOpcode : Obligations.IllegalWordOnlyFlagsOpcode := by
  unfold Obligations.IllegalWordOnlyFlagsOpcode
  refine ⟨fun w s hw => execWord_of_no_row hw s, fun a b s => ?field⟩
  case field =>
    have hd := decode_field a b
    rw [commandWord_eq_or] at hd
    exact ⟨hd, fun hr => (execWord_of_decode hd s).trans (execField_of_outOfRange hr)⟩

end Sys2Proof.Machine

/-! PROOFS of the family 40_checksum: the words of the streaming commands, the illegal words of an opcode, and one
byte of each CRC as eight passes of its loop (R120, R123, R126 to R129). -/

namespace Sys2Proof

/-! ### The command table's opcodes, and the decoder on the two words with an operand -/

/-- R92: every row of the command table fixes all eight bits of the opcode. -/
theorem row_mask_opcode : ∀ r ∈ commandTable, r.mask &&& 0xFF#32 = 0xFF#32 := by decide

/-- R92: no two rows of the command table have the same opcode. -/
theorem row_eq_of_opcode : ∀ r₁ ∈ commandTable, ∀ r₂ ∈ commandTable,
    r₁.pattern &&& 0xFF#32 = r₂.pattern &&& 0xFF#32 → r₁ = r₂ := by decide

/-- R92: a word has the opcode of the row it matches. -/
theorem opcode_of_row {w : Word} {r : CommandRow} (hr : r ∈ commandTable) (hm : w &&& r.mask = r.pattern) :
    r.pattern &&& 0xFF#32 = w &&& 0xFF#32 := by
  rw [← hm, BitVec.and_assoc, row_mask_opcode r hr]

/-- R92: C16UPD uses every bit of `A`, so its word is legal for every byte. -/
theorem decode_c16upd (a : Byte) : decode (commandWord 0x11#8 a 0#8) = .ok (.c16upd a) := by
  simp [decode, checkFields, opField_commandWord, aField_commandWord, bField_commandWord, zField_commandWord]

/-- R92: C8UPD uses every bit of `A`, so its word is legal for every byte. -/
theorem decode_c8upd (a : Byte) : decode (commandWord 0x13#8 a 0#8) = .ok (.c8upd a) := by
  simp [decode, checkFields, opField_commandWord, aField_commandWord, bField_commandWord, zField_commandWord]

end Sys2Proof

namespace Sys2Proof.Machine

/-! ### One word for a command, and the illegal words of its opcode -/

/-- R91 to R93: the encoder leaves a decoded command one word, so the word that decodes to it is its only one. -/
theorem encodedAs_of_decode {i : Instr} {word : Word} (h : decode word = .ok i) : EncodedAs i word := by
  intro w
  constructor
  · intro hw
    obtain ⟨-, hword⟩ := wellFormed_and_encode_of_decode h
    obtain ⟨-, hw'⟩ := wellFormed_and_encode_of_decode hw
    exact hw'.symm.trans hword
  · rintro rfl
    exact h

/-- R90, R91: the one word of a command whose only operand is `A`, put in place by a shift. -/
theorem encodedAs_of_decode_a {i : Instr} {op a : Byte} (h : decode (commandWord op a 0#8) = .ok i) :
    EncodedAs i (op.setWidth 32 ||| (a.setWidth 32 <<< 8)) := by
  refine encodedAs_of_decode ?_
  have hword : commandWord op a 0#8 = op.setWidth 32 ||| (a.setWidth 32 <<< 8) := by
    rw [commandWord_eq_or]
    simp
  rwa [hword] at h

/-- R93: a word with the opcode of a row that does not match that row flags E_OPCODE alone, since no other row has the
opcode. -/
theorem execWord_of_row_mismatch {w : Word} {r : CommandRow} (hr : r ∈ commandTable)
    (hop : w &&& 0xFF#32 = r.pattern &&& 0xFF#32) (hw : w &&& r.mask ≠ r.pattern) (s : State) :
    execWord w s = .next (s.flagErr .eOpcode) := by
  refine execWord_of_no_row (fun r' hr' hm => ?_) s
  have heq : r' = r := row_eq_of_opcode r' hr' r hr ((opcode_of_row hr' hm).trans hop)
  exact hw (heq ▸ hm)

/-! ### The streaming commands -/

/-- R126: C16CLR always completes, with the seed of R121 in C16. -/
theorem exec_c16clr (s : State) : exec .c16clr s = .next { s with c16 := crc16Seed } := rfl

/-- R127: C16UPD always completes, with one step of R120 in C16. -/
theorem exec_c16upd (a : Byte) (s : State) : exec (.c16upd a) s = .next { s with c16 := crc16Step s.c16 a } := rfl

/-- R128: C8CLR always completes, with the seed of R124 in C8. -/
theorem exec_c8clr (s : State) : exec .c8clr s = .next { s with c8 := crc8Seed } := rfl

/-- R129: C8UPD always completes, with one step of R123 in C8. -/
theorem exec_c8upd (a : Byte) (s : State) : exec (.c8upd a) s = .next { s with c8 := crc8Step s.c8 a } := rfl

/-- Settles O18: each clear stores its seed. Only the C16CLR row has opcode 0x10, and its mask covers every bit, so
another word with that opcode matches no row. -/
theorem clearCommandsSeed : Obligations.ClearCommandsSeed := by
  unfold Obligations.ClearCommandsSeed
  refine ⟨encodedAs_of_decode (by decide), encodedAs_of_decode (by decide),
    fun s => ⟨exec_c16clr s, exec_c8clr s⟩, fun w s hop hne => ?illegal⟩
  case illegal =>
    have hmismatch : w &&& 0xFFFFFFFF#32 ≠ 0x10#32 := by
      rwa [show 0xFFFFFFFF#32 = BitVec.allOnes 32 from rfl, BitVec.and_allOnes]
    exact execWord_of_row_mismatch (r := ⟨"C16CLR", 0x00000010#32, 0xFFFFFFFF#32⟩) (by decide) hop hmismatch s

/-! ### One byte of a CRC -/

/-- A bit of a vector is 1 just when masking with that bit leaves the mask. -/
theorem getLsbD_iff_and_twoPow {n i : Nat} (hi : i < n) (x : BitVec n) :
    x.getLsbD i = true ↔ x &&& BitVec.twoPow n i = BitVec.twoPow n i := by
  rw [BitVec.and_twoPow]
  cases x.getLsbD i with
  | true => simp
  | false =>
    have hne : 0#n ≠ BitVec.twoPow n i := fun h => by
      have hbit := congrArg (BitVec.getLsbD · i) h
      simp [hi] at hbit
    simp [hne]

/-- R120: a pass of the CRC-16 tests bit 0, the bit shifted out. -/
theorem crc16Shift_eq (c : BitVec 16) :
    crc16Shift c = if c &&& 1#16 = 1#16 then (c >>> 1) ^^^ 0xA001#16 else c >>> 1 :=
  if_congr (getLsbD_iff_and_twoPow (i := 0) (by decide) c) rfl rfl

/-- R123: a pass of the CRC-8 tests bit 7, the bit shifted out. -/
theorem crc8Shift_eq (c : BitVec 8) :
    crc8Shift c = if c &&& 0x80#8 = 0x80#8 then (c <<< 1) ^^^ 0x01#8 else c <<< 1 :=
  if_congr (getLsbD_iff_and_twoPow (i := 7) (by decide) c) rfl rfl

/-- Settles O19: the word is the decoder's, and the pass of R120 written with a mask is the model's pass, which C16UPD
makes eight times. -/
theorem c16updFoldsOneByte : Obligations.C16updFoldsOneByte := by
  unfold Obligations.C16updFoldsOneByte
  intro pass a s
  have hpass : crc16Shift = pass := funext crc16Shift_eq
  refine ⟨?word, ?fold⟩
  case word => exact encodedAs_of_decode_a (decode_c16upd a)
  case fold =>
    rw [← hpass]
    exact exec_c16upd a s

/-- Settles O20: the word is the decoder's, and the pass of R123 written with a mask is the model's pass, which C8UPD
makes eight times. -/
theorem c8updFoldsOneByte : Obligations.C8updFoldsOneByte := by
  unfold Obligations.C8updFoldsOneByte
  intro pass a s
  have hpass : crc8Shift = pass := funext crc8Shift_eq
  refine ⟨?word, ?fold⟩
  case word => exact encodedAs_of_decode_a (decode_c8upd a)
  case fold =>
    rw [← hpass]
    exact exec_c8upd a s

end Sys2Proof.Machine

/-! PROOFS of the family 41_frame_pack: the bytes of an outbound frame (R141), the frame a build leaves in TXF, and
the words and payloads of PACK, BLDINFO, BLDCMD and BLDLIM (R143 to R150). -/

namespace Sys2Proof

/-! ### The words of the build commands -/

/-- R91, R92: BLDCMD names bit 0 of `B` alone, so its word is legal when the others are 0. -/
theorem decode_bldcmd (a : Byte) {b : Byte} (hb : b &&& 0xFE#8 = 0#8) :
    decode (commandWord 0x22#8 a b) = .ok (.bldcmd a b) := by
  simp [decode, checkFields, opField_commandWord, aField_commandWord, bField_commandWord, zField_commandWord, hb]

end Sys2Proof

namespace Sys2Proof.Machine

/-- R90, R91: BLDCMD without a value has one word for each command code. -/
theorem encodedAs_bldcmd_plain (a : Byte) :
    EncodedAs (.bldcmd a 0#8) (0x00000022#32 ||| (a.setWidth 32 <<< 8)) :=
  encodedAs_of_decode_a (op := 0x22#8) (decode_bldcmd a rfl)

/-- R90, R91: BLDCMD with a value has one word for each command code, that with bit 16 set. -/
theorem encodedAs_bldcmd_value (a : Byte) :
    EncodedAs (.bldcmd a 1#8) (0x00010022#32 ||| (a.setWidth 32 <<< 8)) := by
  have hword : commandWord 0x22#8 a 1#8 = 0x00010022#32 ||| (a.setWidth 32 <<< 8) := by
    calc commandWord 0x22#8 a 1#8 = 0x00000022#32 ||| (a.setWidth 32 <<< 8) ||| 0x00010000#32 :=
          commandWord_eq_or 0x22#8 a 1#8
      _ = 0x00000022#32 ||| 0x00010000#32 ||| (a.setWidth 32 <<< 8) := by
          rw [BitVec.or_assoc, BitVec.or_comm (a.setWidth 32 <<< 8), ← BitVec.or_assoc]
      _ = 0x00010022#32 ||| (a.setWidth 32 <<< 8) := rfl
  exact encodedAs_of_decode (hword ▸ decode_bldcmd a rfl)

/-- R93: a word with the opcode of a row and a bit set that the row requires to be 0 flags E_OPCODE alone. -/
theorem execWord_of_reserved_bits {w m : Word} {r : CommandRow} (hr : r ∈ commandTable)
    (hop : w &&& 0xFF#32 = r.pattern &&& 0xFF#32) (hmask : r.mask &&& m = m) (hzero : r.pattern &&& m = 0#32)
    (hw : w &&& m ≠ 0#32) (s : State) : execWord w s = .next (s.flagErr .eOpcode) := by
  refine execWord_of_row_mismatch hr hop (fun hrow => hw ?_) s
  calc w &&& m = w &&& r.mask &&& m := by rw [BitVec.and_assoc, hmask]
    _ = 0#32 := by rw [hrow, hzero]

/-! ### The bytes of a frame and of a payload -/

/-- R96: the bytes of a 32-bit register as shifts. -/
theorem bytes32_eq (v : BitVec 32) :
    bytes32 v = [(v >>> 24).setWidth 8, (v >>> 16).setWidth 8, (v >>> 8).setWidth 8, v.setWidth 8] := by
  simp only [bytes32, ← BitVec.setWidth_ushiftRight_eq_extractLsb, BitVec.ushiftRight_zero]

/-- R98, R100: the bytes of a 16-bit value as shifts. -/
theorem bytes16_eq (v : BitVec 16) : bytes16 v = [(v >>> 8).setWidth 8, v.setWidth 8] := by
  simp only [bytes16, ← BitVec.setWidth_ushiftRight_eq_extractLsb, BitVec.ushiftRight_zero]

/-- R94, R96: the ten bytes before the payload. -/
theorem frameBody_eq (t : Byte) (inv dtu : BitVec 32) (f : Byte) (p : List Byte) :
    frameBody t inv dtu f p = [t, (inv >>> 24).setWidth 8, (inv >>> 16).setWidth 8, (inv >>> 8).setWidth 8,
      inv.setWidth 8, (dtu >>> 24).setWidth 8, (dtu >>> 16).setWidth 8, (dtu >>> 8).setWidth 8,
      dtu.setWidth 8, f] ++ p := by
  rw [frameBody, bytes32_eq, bytes32_eq]
  rfl

/-- R141: without the CRC-16 the payload is followed by the CRC-8. -/
theorem frameBytes_unsealed (t : Byte) (inv dtu : BitVec 32) (f : Byte) (p : List Byte) :
    frameBytes t inv dtu f p 0#1 = frameBody t inv dtu f p ++ [crc8Custom (frameBody t inv dtu f p)] := by
  simp [frameBytes, payloadSeal]

/-- R98, R141: with the CRC-16 the seal stands between the payload and the CRC-8, which covers it. -/
theorem frameBytes_sealed (t : Byte) (inv dtu : BitVec 32) (f : Byte) (p : List Byte) :
    frameBytes t inv dtu f p 1#1 = frameBody t inv dtu f p ++ bytes16 (crc16Modbus p) ++
      [crc8Custom (frameBody t inv dtu f p ++ bytes16 (crc16Modbus p))] := rfl

/-- Settles O25: the two forms of the frame, with the registers' bytes written as shifts. -/
theorem frameLayout : Obligations.FrameLayout := by
  unfold Obligations.FrameLayout
  intro t inv dtu f p h k sealed
  have hbody : frameBody t inv dtu f p = h ++ p := frameBody_eq t inv dtu f p
  have hseal : frameBody t inv dtu f p ++ bytes16 (crc16Modbus p) = sealed := by rw [hbody, bytes16_eq]
  refine ⟨?unsealed, ?sealed⟩
  case unsealed => rw [frameBytes_unsealed, hbody]
  case sealed => rw [frameBytes_sealed, hseal]

/-- R99, R145: byte `i` of the info payload, by its distance from the time offset. -/
theorem infoByte_eq (e : BitVec 32) (i : Fin 13) :
    infoByte e i = if Config.infoTimeOff.val ≤ i.val ∧ i.val < Config.infoTimeOff.val + 4
      then (e >>> (8 * (3 - (i.val - Config.infoTimeOff.val)))).setWidth 8
      else Config.infoTemplate i := by
  simp only [infoByte, ← BitVec.setWidth_ushiftRight_eq_extractLsb]
  by_cases htime : Config.infoTimeOff.val ≤ i.val ∧ i.val < Config.infoTimeOff.val + 4
  · rw [if_pos htime]
    obtain ⟨d, hd⟩ : ∃ d, i.val = Config.infoTimeOff.val + d := Nat.exists_eq_add_of_le htime.1
    have hlt : d < 4 := by omega
    rw [hd, Nat.add_sub_cancel_left]
    interval_cases d <;> simp
  · rw [if_neg htime, if_neg (by omega), if_neg (by omega), if_neg (by omega), if_neg (by omega)]

/-- R145: byte `i` of the info payload stands at place `i`. -/
theorem infoPayload_eq_ofFn (e : BitVec 32) : infoPayload e = List.ofFn (infoByte e) := by
  simp only [List.ofFn_succ, List.ofFn_zero]
  rfl

/-- R100, R147: a payload with a value, as shifts. -/
theorem cmdPayload_value (code : Byte) (val mod : BitVec 16) :
    cmdPayload code true val mod = [code, (val >>> 8).setWidth 8, val.setWidth 8,
      (mod >>> 8).setWidth 8, mod.setWidth 8] := by
  rw [cmdPayload, bytes16_eq, bytes16_eq]
  rfl

/-- R149: the modifier has `persist` in bit 8 and `relative` in bit 0. -/
theorem limitModifier_eq (rel per : Bool) :
    limitModifier rel per = BitVec.ofNat 16 (256 * per.toNat + rel.toNat) := by
  cases rel <;> cases per <;> rfl

/-! ### What PACK and the builds leave -/

/-- A byte of a stored run, by its place in the run. -/
theorem Memory.read_writeBytes_add {m : Memory} (hw : m.wf = true) (a : Nat) {bs : List Byte} {k : Nat}
    (hk : k < bs.length) : (m.writeBytes a bs).read (a + k) = bs.getD k 0#8 := by
  rw [Memory.read_writeBytes_inside hw (Nat.le_add_right a k) (Nat.add_lt_add_left hk a), Nat.add_sub_cancel_left]

/-- R141, R143: a frame written to TXF reads back byte by byte. -/
theorem read_writeBytes_frame {m : Memory} (hw : m.wf = true) {t : Byte} {inv dtu : BitVec 32} {f : Byte}
    {p : List Byte} {c : BitVec 1} {k : Nat} (hk : k < frameLength p.length c) :
    (m.writeBytes Config.txfBase (frameBytes t inv dtu f p c)).read (0x060 + k) =
      (frameBytes t inv dtu f p c).getD k 0#8 :=
  Memory.read_writeBytes_add hw Config.txfBase (by rwa [frameBytes_length])

/-- R143: a frame written to TXF leaves every byte outside its length alone. -/
theorem read_writeBytes_frame_outside (m : Memory) {t : Byte} {inv dtu : BitVec 32} {f : Byte}
    {p : List Byte} {c : BitVec 1} {a : Nat} (ha : a < 0x060 ∨ 0x060 + frameLength p.length c ≤ a) :
    (m.writeBytes Config.txfBase (frameBytes t inv dtu f p c)).read a = m.read a :=
  Memory.read_writeBytes_outside m _ (by rwa [frameBytes_length])

/-- R143, R146, R148, R150: a build of a payload whose frame fits leaves the payload in TXP, the frame over it in TXF,
their lengths, and nothing else changed. -/
theorem State.build_buildsFrame {s : State} (hw : s.buf.wf = true) (t : Byte) {p : List Byte}
    (hp : p.length ≤ 19) : BuildsFrame s (s.build t p) t p := by
  have hlen : frameLength p.length 1#1 = p.length + 13 := by simp [frameLength]; omega
  rw [State.build_of_le s hw hp]
  refine ⟨fun k hk => ?payload, fun k hk => ?frame, fun a htxp htxf => ?others, ?txpLen, ?txfLen, ?result, rfl⟩
  case payload =>
    rw [read_writeBytes_frame_outside _ (by omega)]
    exact Memory.read_writeBytes_add hw Config.txpBase hk
  case frame => exact read_writeBytes_frame (Memory.wf_writeBytes hw _ _) (by omega)
  case others =>
    rw [read_writeBytes_frame_outside _ (by rwa [hlen])]
    exact Memory.read_writeBytes_outside _ _ htxp
  case txpLen => exact Nat.mod_eq_of_lt (by omega)
  case txfLen => exact Nat.mod_eq_of_lt (by omega)
  case result => exact Nat.mod_eq_of_lt (by omega)

/-! ### The four commands -/

/-- Settles O27: the two outcomes of PACK, by the length of the frame against 32. -/
theorem packBuildsFrame : Obligations.PackBuildsFrame := by
  unfold Obligations.PackBuildsFrame
  refine ⟨encodedAs_of_decode (by decide), fun s hw => ?_⟩
  intro n len p
  have hplen : p.length = n := Memory.readBytes_length s.buf 0x040 n
  have hlen : frameLength p.length s.ctrl = len := by rw [hplen]; rfl
  rcases execPack_cases s with ⟨hlong, he⟩ | ⟨hfits, he⟩
  · exact ⟨fun _ => he, fun hle => absurd hle (Nat.not_le.mpr hlong)⟩
  · refine ⟨fun hlt => absurd hlt (Nat.not_lt.mpr hfits),
      fun hle => ⟨_, he, fun k hk => ?frame, fun a ha => ?others, ?txfLen, ?result, rfl⟩⟩
    case frame => exact read_writeBytes_frame (p := p) hw (hlen ▸ hk)
    case others => exact read_writeBytes_frame_outside (p := p) _ (hlen ▸ ha)
    case txfLen => exact Nat.mod_eq_of_lt (Nat.lt_of_le_of_lt hle (by decide))
    case result => exact Nat.mod_eq_of_lt (Nat.lt_of_le_of_lt hle (by decide))

/-- Settles O28: BLDINFO is a build of the info payload, whose bytes are the template with the time over it. -/
theorem bldinfoBuildsRequest : Obligations.BldinfoBuildsRequest := by
  unfold Obligations.BldinfoBuildsRequest
  refine ⟨encodedAs_of_decode (by decide), fun s hw => ?_⟩
  intro o p
  have hpayload : infoPayload s.epoch = p :=
    (infoPayload_eq_ofFn s.epoch).trans (congrArg List.ofFn (funext (infoByte_eq s.epoch)))
  have hlen : p.length ≤ 19 := by rw [← hpayload, infoPayload_length]; decide
  exact ⟨_, hpayload ▸ execBldinfo_eq s, State.build_buildsFrame hw _ hlen⟩

/-- Settles O29: BLDCMD is a build of the command payload, which bit 0 of `b` gives a value or not. Only the row of
BLDCMD has opcode 0x22, and it requires the rest of `B` and `Z` to be 0. -/
theorem bldcmdBuildsControl : Obligations.BldcmdBuildsControl := by
  unfold Obligations.BldcmdBuildsControl
  refine ⟨fun a => ⟨encodedAs_bldcmd_plain a, encodedAs_bldcmd_value a⟩, fun w s hop hbits => ?illegal,
    fun a b s hw => ⟨fun hb => ?plain, fun hb => ?value⟩⟩
  case illegal =>
    exact execWord_of_reserved_bits (r := ⟨"BLDCMD", 0x00000022#32, 0xFFFE00FF#32⟩) (by decide) hop
      (by decide) (by decide) hbits s
  case plain =>
    have he := execBldcmd_eq a b s
    rw [hb] at he
    exact ⟨_, he, State.build_buildsFrame hw _ (cmdPayload_length_le a false s.value s.modifier)⟩
  case value =>
    have he := execBldcmd_eq a b s
    rw [hb, cmdPayload_value] at he
    exact ⟨_, he, State.build_buildsFrame hw _ (by simp)⟩

/-- Settles O30: BLDLIM is a build of the command payload on the state with the modifier already written. Only the row
of BLDLIM has opcode 0x23, and it requires `A`, `Z` and the rest of `B` to be 0. -/
theorem bldlimBuildsLimit : Obligations.BldlimBuildsLimit := by
  unfold Obligations.BldlimBuildsLimit
  refine ⟨encodedAs_of_decode (by decide), encodedAs_of_decode (by decide), encodedAs_of_decode (by decide),
    encodedAs_of_decode (by decide), fun w s hop hbits => ?illegal, fun b s hw => ?build⟩
  case illegal =>
    exact execWord_of_reserved_bits (r := ⟨"BLDLIM", 0x00000023#32, 0xFFFCFFFF#32⟩) (by decide) hop
      (by decide) (by decide) hbits s
  case build =>
    intro m
    have he := execBldlim_eq b s
    rw [limitModifier_eq, cmdPayload_value] at he
    have hlen : [11#8, (s.value >>> 8).setWidth 8, s.value.setWidth 8, (m >>> 8).setWidth 8,
        m.setWidth 8].length ≤ 19 := by simp
    exact ⟨_, he, congrArg State.modifier (State.build_frame _ _ _ hlen),
      State.build_buildsFrame (s := { s with modifier := m }) hw _ hlen⟩

end Sys2Proof.Machine

/-! PROOFS of the family 42_identity_parse: the leading digits of a serial (R160), the schema that IDENT loads (R161,
R162), and the masked big-endian field that FIELD reads (R163, R164, R166). -/

namespace Sys2Proof.Machine

/-! ### The leading digits -/

/-- R160: a number of 5 to `fuel + 4` decimal digits is divided by 10 until four digits are left, which takes 1 to
`fuel` divisions. -/
theorem prefixLoop_leaves_four_digits (fuel : Nat) {p : Nat} (hlow : 10000 ≤ p) (hhigh : p < 10 ^ (fuel + 4)) :
    1000 ≤ prefixLoop fuel p ∧ prefixLoop fuel p ≤ 9999 ∧
      ∃ k, 1 ≤ k ∧ k ≤ fuel ∧ prefixLoop fuel p = p / 10 ^ k := by
  induction fuel generalizing p with
  | zero => exact absurd hlow (Nat.not_le.mpr hhigh)
  | succ fuel ih =>
    rw [prefixLoop, if_pos hlow]
    rcases Nat.lt_or_ge (p / 10) 10000 with hlast | hmore
    · rw [prefixLoop_of_lt fuel hlast]
      exact ⟨by omega, by omega, 1, by omega, by omega, by rw [Nat.pow_one]⟩
    · have hhigh' : p / 10 < 10 ^ (fuel + 4) :=
        Nat.div_lt_of_lt_mul (by rwa [Nat.mul_comm, ← Nat.pow_succ, Nat.succ_eq_add_one, Nat.add_right_comm])
      obtain ⟨hge, hle, k, -, hk, heq⟩ := ih hmore hhigh'
      refine ⟨hge, hle, k + 1, by omega, by omega, ?_⟩
      rw [heq, Nat.div_div_eq_div_mul, Nat.pow_succ']

/-- Settles O32: below 10000 the loop of R160 stops at once; a 64-bit number has at most 20 digits, so the 16
divisions of `prefix4` leave four. -/
theorem prefix4IsLeadingDigits : Obligations.Prefix4IsLeadingDigits := by
  unfold Obligations.Prefix4IsLeadingDigits
  intro n hn
  exact ⟨prefixLoop_of_lt 16, fun hlow => prefixLoop_leaves_four_digits 16 hlow (Nat.lt_trans hn (by decide))⟩

/-! ### IDENT -/

/-- R162: IDENT on a serial that has a family. -/
theorem execIdent_of_some {s : State} {f : Family} (h : familyOf s.serial = some f) :
    exec .ident s = .next (s.identLoad f) := by
  rcases execIdent_cases s with ⟨hnone, -⟩ | ⟨g, hg, he⟩
  · exact absurd (h.symm.trans hnone) (Option.some_ne_none f)
  · obtain rfl : f = g := Option.some.inj (h.symm.trans hg)
    exact he

/-- R162, R211: IDENT on a serial that has none. -/
theorem execIdent_of_none {s : State} (h : familyOf s.serial = none) : exec .ident s = .next s.identFail := by
  rcases execIdent_cases s with ⟨-, he⟩ | ⟨f, hf, -⟩
  · exact he
  · exact absurd (hf.symm.trans h) (Option.some_ne_none f)

/-- R161: a number whose leading digits are none of the three families' has no family. -/
theorem familyOf_eq_none {n : Nat} (h1 : prefix4 n ≠ 1121) (h2 : prefix4 n ≠ 1141) (h3 : prefix4 n ≠ 1161) :
    familyOf n = none := by
  rw [familyOf, if_neg h1, if_neg h2, if_neg h3]

/-- Settles O34: the leading digits of the serial decide its family, and the ids of FRAGID from NFRAG on are 0. -/
theorem identLoadsSchema : Obligations.IdentLoadsSchema := by
  unfold Obligations.IdentLoadsSchema
  refine ⟨encodedAs_of_decode (by decide), fun s => ?_⟩
  intro d
  refine ⟨fun hd => ?family1, fun hd => ?family2, fun hd => ?family3, fun h1 h2 h3 => ?noFamily⟩
  case family1 => exact execIdent_of_some (f := .family1) (familyOf_eq_some.mpr hd)
  case family2 => exact execIdent_of_some (f := .family2) (familyOf_eq_some.mpr hd)
  case family3 => exact execIdent_of_some (f := .family3) (familyOf_eq_some.mpr hd)
  case noFamily => exact execIdent_of_none (familyOf_eq_none h1 h2 h3)

/-! ### FIELD -/

/-- R8: a slice of the bytes from number `a` on that ends within them is the bytes from number `a + off` on. -/
theorem slice_readBytes (m : Memory) (a : Nat) {n off len : Nat} (h : off + len ≤ n) :
    slice (m.readBytes a n) off len = m.readBytes (a + off) len := by
  refine List.ext_getElem ?length fun i _ _ => ?byte
  case length => simp only [slice, List.length_take, List.length_drop, Memory.readBytes_length]; omega
  case byte => simp [slice, Memory.readBytes, Nat.add_assoc]

/-- R8: the big-endian value of buffer bytes, read one after another. -/
theorem be_readBytes (m : Memory) (a n : Nat) :
    be (m.readBytes a n) = (List.range n).foldl (fun v k => 256 * v + (m.read (a + k)).toNat) 0 :=
  List.foldl_map

/-- R163: the mask keeps the low 16 bits, or none when timedOut is set. -/
theorem ofNat_and_validMask (timedOut : Bool) (v : Nat) :
    BitVec.ofNat 32 v &&& (validMask timedOut).setWidth 32 =
      if timedOut then 0#32 else BitVec.ofNat 32 (v % 65536) := by
  cases timedOut with
  | true => exact BitVec.and_zero
  | false =>
    refine BitVec.eq_of_toNat_eq ?_
    calc v % 2 ^ 32 &&& (2 ^ 16 - 1)
      _ = v % 2 ^ 32 % 2 ^ 16 := Nat.and_two_pow_sub_one_eq_mod _ 16
      _ = v % 65536 % 2 ^ 32 := by omega

/-- R166: a width of 1 to 4 whose bytes lie within ASM gives the masked value of the field. -/
theorem execField_of_inRange {a b : Byte} {s : State}
    (h : ¬(b.toNat = 0 ∨ 4 < b.toNat ∨ s.asmLen.toNat < a.toNat + b.toNat)) :
    exec (.field a b) s = .next { s with
      result := fieldValue s.asmBytes a.toNat b.toNat (validMask s.timedOut) } := by
  rcases execField_cases a b s with ⟨hout, _⟩ | ⟨-, he⟩
  · exact absurd hout h
  · exact he

/-- R164: the masked value of a field that lies within ASM, by its bytes in the buffer. -/
theorem fieldValue_asmBytes {s : State} {off w : Nat} (h : off + w ≤ s.asmLen.toNat) :
    fieldValue s.asmBytes off w (validMask s.timedOut) =
      if s.timedOut then 0#32 else BitVec.ofNat 32
        ((List.range w).foldl (fun v k => 256 * v + (s.buf.read (0x0C0 + off + k)).toNat) 0 % 65536) := by
  rw [fieldValue, ofNat_and_validMask, State.asmBytes, slice_readBytes _ _ h, be_readBytes, Config.asmBase]

/-- Settles O35: every word of FIELD is legal; the field's bytes are those of ASM, and the mask is the reduction to 16
bits. -/
theorem fieldReadsMaskedBigEndian : Obligations.FieldReadsMaskedBigEndian := by
  unfold Obligations.FieldReadsMaskedBigEndian
  refine fun a b s => ⟨?word, execField_of_outOfRange, fun hlow hhigh hend => ?value⟩
  case word =>
    have hd := decode_field a b
    rw [commandWord_eq_or] at hd
    exact encodedAs_of_decode hd
  case value =>
    rw [execField_of_inRange (by omega), fieldValue_asmBytes hend]
    rfl

end Sys2Proof.Machine

/-! PROOFS of the family 43_reassembly: RSTASM (R182), one raw frame absorbed (R184), the buffer that ASSEMBLE and
ASMZERO write (R186, R188, R192), and the checksum that VERIFY compares (R189, R190). -/

namespace Sys2Proof.Machine

/-! ### RSTASM -/

/-- R182: RSTASM always completes, with every schema position awaited and none collected. -/
theorem exec_rstasm (s : State) : exec .rstasm s = .next s.rstasm := rfl

/-- Settles O36: `rstasm` has the low NFRAG bits of OUTST set. -/
theorem rstasmAwaitsEveryPosition : Obligations.RstasmAwaitsEveryPosition := by
  unfold Obligations.RstasmAwaitsEveryPosition
  exact ⟨encodedAs_of_decode (by decide), fun s => ⟨_, exec_rstasm s, rstasm_outst_getLsbD s, rfl, rfl⟩⟩

/-! ### ABSORB -/

/-- R101, R181: the raw frame in RXF is good when the CRC-8 of its first 26 bytes is the byte after them. -/
theorem fragmentOk_rawFrame_iff (s : State) :
    fragmentOk (unpack s.rawFrame) = true ↔
      crc8Custom ((List.range 26).map fun k => s.buf.read (0x080 + k)) = s.buf.read (0x080 + 26) := by
  rw [unpack_rawFrame]
  exact beq_iff_eq

/-- R184: ABSORB drops a frame that is not good. -/
theorem execAbsorb_of_bad {s : State} (h : ¬fragmentOk (unpack s.rawFrame) = true) :
    exec .absorb s = .next { s with status := setBit s.status 1, result := 0#32 } := by
  rcases execAbsorb_cases s with ⟨-, he⟩ | ⟨hok, -⟩
  · exact he
  · exact absurd hok h

/-- R184: ABSORB runs its loop on a frame that is good. -/
theorem execAbsorb_of_good {s : State} (h : fragmentOk (unpack s.rawFrame) = true) :
    exec .absorb s = .next { s.absorbGood (unpack s.rawFrame) with
      result := satisfiedResult (s.absorbGood (unpack s.rawFrame)).outst } := by
  rcases execAbsorb_cases s with ⟨hbad, -⟩ | ⟨-, he⟩
  · exact absurd (hbad.symm.trans h) Bool.false_ne_true
  · exact he

/-- R184: a position that expects the fragment's id is collected, no longer awaited, and holds the payload. -/
theorem State.absorbGood_of_expects {s : State} {f : Fragment} {i : Fin 4} (hw : s.buf.wf = true)
    (hp : f.payload.length = 16) (h : s.expects f i) :
    (s.absorbGood f).coll.getLsbD i.val = true ∧ (s.absorbGood f).outst.getLsbD i.val = false ∧
      ∀ j, j < 16 → (s.absorbGood f).buf.read (0x100 + 16 * i.val + j) = f.payload.getD j 0#8 := by
  refine ⟨?collected, ?awaited, fun j hj => ?slot⟩
  case collected => rw [State.absorbGood_coll, decide_eq_true h, Bool.or_true]
  case awaited => rw [State.absorbGood_outst, decide_eq_true h, Bool.not_true, Bool.and_false]
  case slot => rw [State.absorbGood_slot hw hp i hj, if_pos h]

/-- R184: a position that does not expect the fragment's id keeps its two bits and its slot. -/
theorem State.absorbGood_of_not_expects {s : State} {f : Fragment} {i : Fin 4} (hw : s.buf.wf = true)
    (hp : f.payload.length = 16) (h : ¬s.expects f i) :
    (s.absorbGood f).coll.getLsbD i.val = s.coll.getLsbD i.val ∧
      (s.absorbGood f).outst.getLsbD i.val = s.outst.getLsbD i.val ∧
      ∀ j, j < 16 →
        (s.absorbGood f).buf.read (0x100 + 16 * i.val + j) = s.buf.read (0x100 + 16 * i.val + j) := by
  refine ⟨?collected, ?awaited, fun j hj => ?slot⟩
  case collected => rw [State.absorbGood_coll, decide_eq_false h, Bool.or_false]
  case awaited => rw [State.absorbGood_outst, decide_eq_false h, Bool.not_false, Bool.and_true]
  case slot => rw [State.absorbGood_slot hw hp i hj, if_neg h]

/-- R101: byte `j` of the unpacked payload is byte `10 + j` of RXF. -/
theorem unpack_rawFrame_payload_getD (s : State) {j : Nat} (hj : j < 16) :
    (unpack s.rawFrame).payload.getD j 0#8 = s.buf.read (0x080 + (10 + j)) := by
  rw [unpack_rawFrame, ← Nat.add_assoc]
  exact Memory.readBytes_getD s.buf 0x08A hj 0#8

/-- Settles O37: the CRC-8 decides between the two outcomes; after the loop each position is told by whether it
expects the frame's id. -/
theorem absorbStoresGoodFragment : Obligations.AbsorbStoresGoodFragment := by
  unfold Obligations.AbsorbStoresGoodFragment
  refine ⟨encodedAs_of_decode (by decide), fun s hw => ?_⟩
  intro r sum
  have hp := unpack_rawFrame_payload_length s
  have hid : (unpack s.rawFrame).id = r 9 := by rw [unpack_rawFrame]
  refine ⟨fun hbad => execAbsorb_of_bad (mt (fragmentOk_rawFrame_iff s).mp hbad), fun hgood =>
    ⟨_, execAbsorb_of_good ((fragmentOk_rawFrame_iff s).mpr hgood), fun i => ?position,
      fun a ha => State.absorbGood_outside s hp ha, rfl, ?frame⟩⟩
  case position =>
    rw [← hid]
    split
    next h =>
      obtain ⟨hcoll, houtst, hslot⟩ := State.absorbGood_of_expects hw hp h
      exact ⟨hcoll, houtst, fun j hj => (hslot j hj).trans (unpack_rawFrame_payload_getD s hj)⟩
    next h => exact State.absorbGood_of_not_expects hw hp h
  case frame =>
    exact congrArg (fun t : State => { t with
      result := satisfiedResult (s.absorbGood (unpack s.rawFrame)).outst }) (State.absorbGood_frame _ s)

/-! ### ASSEMBLE and ASMZERO -/

/-- R188: a byte of a collected position comes from that position's slot. -/
theorem State.assembledByte_of_collected {s : State} {k : Nat} (h : s.coll.getLsbD (k / 16) = true) :
    s.assembledByte k = s.buf.read (0x100 + 16 * (k / 16) + k % 16) := by
  have hmissing : missingByte s.coll k = false := by rw [missingByte, Config.fragPayload, h, Bool.not_true]
  rw [State.assembledByte, if_neg (Bool.eq_false_iff.mp hmissing), Nat.add_assoc, Nat.div_add_mod]
  rfl

/-- Settles O40: the length is below 128, so ASMLEN holds it; the bytes written are those of `assembledByte`. -/
theorem assembleConcatenatesCollected : Obligations.AssembleConcatenatesCollected := by
  unfold Obligations.AssembleConcatenatesCollected
  refine ⟨encodedAs_of_decode (by decide), fun s hw => ?_⟩
  intro len
  have hlen : len < 128 := s.asmLength_lt
  have hrun : ((List.range s.asmLength).map s.assembledByte).length = len := by
    rw [List.length_map, List.length_range]
    rfl
  refine ⟨_, execAssemble_eq s, fun k hk hcoll => ?collected, fun a ha => ?others, ?asmLen, ?result, rfl, rfl⟩
  case collected =>
    have hk' : k < s.asmLength := hk
    calc (s.buf.writeBytes Config.asmBase ((List.range s.asmLength).map s.assembledByte)).read (0x0C0 + k)
      _ = ((List.range s.asmLength).map s.assembledByte).getD k 0#8 :=
        Memory.read_writeBytes_add hw Config.asmBase (by rwa [hrun])
      _ = s.assembledByte k := by simp [List.getD_eq_getElem?_getD, hk']
      _ = s.buf.read (0x100 + 16 * (k / 16) + k % 16) := State.assembledByte_of_collected hcoll
  case others => exact Memory.read_writeBytes_outside _ _ (by rwa [hrun])
  case asmLen => exact Nat.mod_eq_of_lt hlen
  case result => exact Nat.mod_eq_of_lt (Nat.lt_trans hlen (by decide))

/-- R192: ASMZERO always completes, with a run of TOTLEN zeros in ASM. -/
theorem exec_asmzero (s : State) : exec .asmzero s = .next { s with
    asmLen := s.totLen
    buf := s.buf.writeBytes Config.asmBase (List.replicate s.totLen.toNat 0x00#8) } := rfl

/-- Settles O44: the run of zeros reads back inside ASM[0..TOTLEN-1] and leaves the bytes outside alone. -/
theorem asmzeroZeroesSchemaLength : Obligations.AsmzeroZeroesSchemaLength := by
  unfold Obligations.AsmzeroZeroesSchemaLength
  refine ⟨encodedAs_of_decode (by decide), fun s hw =>
    ⟨_, exec_asmzero s, fun k hk => ?zeros, fun a ha => ?others, rfl⟩⟩
  case zeros =>
    calc (s.buf.writeBytes Config.asmBase (List.replicate s.totLen.toNat 0x00#8)).read (0x0C0 + k)
      _ = (List.replicate s.totLen.toNat 0x00#8).getD k 0#8 :=
        Memory.read_writeBytes_add hw Config.asmBase (by rwa [List.length_replicate])
      _ = 0x00#8 := List.getD_replicate _ hk
  case others => exact Memory.read_writeBytes_outside _ _ (by rwa [List.length_replicate])

/-! ### VERIFY -/

/-- R189: the assembled buffer is good when it has two bytes at least and its last two are the CRC-16 of those before
them, high byte first. -/
theorem crc16ok_asmBytes_iff (s : State) :
    crc16ok s.asmBytes = true ↔ 2 ≤ s.asmLen.toNat ∧
      (crc16Modbus ((List.range (s.asmLen.toNat - 2)).map fun k => s.buf.read (0x0C0 + k))).toNat =
        256 * (s.buf.read (0x0C0 + (s.asmLen.toNat - 2))).toNat +
          (s.buf.read (0x0C0 + (s.asmLen.toNat - 1))).toNat := by
  rw [crc16ok, State.asmBytes, Memory.readBytes_length]
  by_cases hshort : s.asmLen.toNat < 2
  · simp only [if_pos hshort, Bool.false_eq_true, Nat.not_le.mpr hshort, false_and]
  · have hn : 2 ≤ s.asmLen.toNat := Nat.not_lt.mp hshort
    have hdata : 0 + (s.asmLen.toNat - 2) ≤ s.asmLen.toNat := by omega
    have htail : s.asmLen.toNat - 2 + 2 ≤ s.asmLen.toNat := by omega
    have hlast : 0x0C0 + (s.asmLen.toNat - 2) + 1 = 0x0C0 + (s.asmLen.toNat - 1) := by omega
    have hbe : be (s.buf.readBytes (0x0C0 + (s.asmLen.toNat - 2)) 2) =
        256 * (s.buf.read (0x0C0 + (s.asmLen.toNat - 2))).toNat +
          (s.buf.read (0x0C0 + (s.asmLen.toNat - 1))).toNat := by
      rw [be_readBytes, ← hlast]
      simp [List.range_succ]
    rw [if_neg hshort, slice_readBytes _ _ hdata, slice_readBytes _ _ htail, beq_iff_eq, Config.asmBase, hbe]
    exact (and_iff_right hn).symm

/-- Settles O43: R189's check decides between the two outcomes. -/
theorem verifyChecksAssembledBuffer : Obligations.VerifyChecksAssembledBuffer := by
  unfold Obligations.VerifyChecksAssembledBuffer
  refine ⟨encodedAs_of_decode (by decide), fun s => ?_⟩
  intro n b ok
  have hok : crc16ok s.asmBytes = true ↔ ok := crc16ok_asmBytes_iff s
  rcases execVerify_cases s with ⟨hmatch, he⟩ | ⟨hmismatch, he⟩
  · exact ⟨fun _ => he, fun hnot => absurd (hok.mp hmatch) hnot⟩
  · exact ⟨fun h => absurd (hok.mpr h) (Bool.eq_false_iff.mp hmismatch), fun _ => he⟩

end Sys2Proof.Machine

/-! PROOFS of the family 44_housekeeping: NOP (R201), and what SRESET leaves (R202). -/

namespace Sys2Proof.Machine

/-! ### NOP -/

/-- R201: NOP always completes, with every register and buffer byte as it was. -/
theorem exec_nop (s : State) : exec .nop s = .next s := rfl

/-- Settles O45: the word 0 decodes to NOP, so it is its only word, and NOP keeps the state. -/
theorem nopChangesNothing : Obligations.NopChangesNothing := by
  unfold Obligations.NopChangesNothing
  exact ⟨encodedAs_of_decode (by decide), exec_nop⟩

/-! ### SRESET -/

/-- R42, R202: the FRAGID registers after SRESET, read through their accessor. -/
@[simp] theorem State.resetBlock_fragId (s : State) (i : Fin 4) : s.resetBlock.fragId i = 0#8 :=
  calc s.resetBlock.fragId i
    _ = State.reset.fragId i := rfl
    _ = 0#8 := State.reset_fragId i

/-- R46 to R50, R202: a buffer byte after SRESET, read through its accessor. -/
theorem State.resetBlock_buf_read (s : State) (a : Nat) : s.resetBlock.buf.read a = 0#8 := by
  rw [State.resetBlock_buf, State.reset_buf_read]

/-- Settles O46: SRESET leaves `resetBlock`, which is the reset state but for the model's own three fields. The other
registers hold their reset values as they stand; the FRAGID registers and the buffer bytes are read by their accessors. -/
theorem sresetRestoresResetState : Obligations.SresetRestoresResetState := by
  unfold Obligations.SresetRestoresResetState
  refine ⟨encodedAs_of_decode (by decide), fun s => ⟨s.resetBlock, exec_sreset s,
    rfl, rfl, rfl, rfl, rfl, rfl, rfl, rfl, rfl, rfl, rfl, rfl, rfl, rfl, rfl, rfl, rfl, rfl, rfl, rfl,
    ?fragIds, rfl, rfl, rfl, ?buffers, ?wholeState⟩⟩
  case fragIds => exact s.resetBlock_fragId
  case buffers => exact s.resetBlock_buf_read
  case wholeState => rfl

end Sys2Proof.Machine

/-! PROOFS of the family other: the command word (R90 to R93, R104). -/

namespace Sys2Proof

/-! ### Every command's word -/

/-- R91, R92: BLDLIM names bits 0 and 1 of `B` alone, so its word is legal when the others are 0. -/
theorem decode_bldlim {b : Byte} (hb : b &&& 0xFC#8 = 0#8) :
    decode (commandWord 0x23#8 0#8 b) = .ok (.bldlim b) := by
  simp [decode, checkFields, opField_commandWord, aField_commandWord, bField_commandWord, zField_commandWord, hb]

/-- R91, R92: the decoder reads a well-formed command back from its word. -/
theorem decode_encode {i : Instr} (h : i.wellFormed = true) : decode (encode i) = .ok i := by
  cases i with
  | c16upd a => exact decode_c16upd a
  | c8upd a => exact decode_c8upd a
  | bldcmd a b => exact decode_bldcmd a (beq_iff_eq.mp h)
  | bldlim b => exact decode_bldlim (beq_iff_eq.mp h)
  | field a b => exact decode_field a b
  | _ => rfl

/-- Settles O1: the words with an operand are read back field by field; the others are fixed words. -/
theorem decodeAfterEncode : Obligations.DecodeAfterEncode := by
  unfold Obligations.DecodeAfterEncode
  exact fun _ h => decode_encode h

/-- Settles O2: the decoder's rows, one by one. -/
theorem encodeAfterDecode : Obligations.EncodeAfterDecode := by
  unfold Obligations.EncodeAfterDecode
  exact fun _ _ h => wellFormed_and_encode_of_decode h

/-! ### The row that a word matches -/

/-- R92: a row fixes the opcode and `Z`, which is 0, and its pattern has no operand bits. -/
theorem row_fields : ∀ r ∈ commandTable, opField r.mask = BitVec.allOnes 8 ∧ zField r.mask = BitVec.allOnes 8 ∧
    zField r.pattern = 0#8 ∧ aField r.pattern = 0#8 ∧ bField r.pattern = 0#8 := by decide

/-- R91, R92: on the opcode of a row the decoder checks that the operand bits the row's mask covers are 0. -/
theorem decode_of_row_opcode : ∀ r ∈ commandTable, ∀ w : Word, opField w = opField r.pattern →
    ∃ i : Instr, i.mnemonic = r.mnemonic ∧
      decode w = checkFields w (~~~aField r.mask) (~~~bField r.mask) i := by
  intro r hr
  fin_cases hr
  all_goals
    intro w hw
    refine ⟨?_, ?_, ?_⟩
    on_goal 3 =>
      simp only [decode, hw]
      rfl
    rfl

/-- R91: the checks pass when the bits that they look at are 0. -/
theorem checkFields_of_zero {w : Word} {aMask bMask : Byte} (i : Instr) (hz : zField w = 0#8)
    (ha : aField w &&& ~~~aMask = 0#8) (hb : bField w &&& ~~~bMask = 0#8) :
    checkFields w aMask bMask i = .ok i := by
  simp [checkFields, hz, ha, hb]

/-- R92: a word that matches a row decodes to a command with the row's mnemonic: the row's mask acts on each field of
the word apart. -/
theorem decode_of_row {w : Word} {r : CommandRow} (hr : r ∈ commandTable) (hm : w &&& r.mask = r.pattern) :
    ∃ i, decode w = .ok i ∧ i.mnemonic = r.mnemonic := by
  obtain ⟨hopMask, hzMask, hz, ha, hb⟩ := row_fields r hr
  have field (k : Nat) :
      w.extractLsb' k 8 &&& r.mask.extractLsb' k 8 = r.pattern.extractLsb' k 8 := by
    rw [← BitVec.extractLsb'_and, hm]
  have hop : opField w = opField r.pattern := by
    rw [← BitVec.and_allOnes (x := opField w), ← hopMask]
    exact field 0
  have hzw : zField w = 0#8 := by
    rw [← BitVec.and_allOnes (x := zField w), ← hzMask, ← hz]
    exact field 24
  obtain ⟨i, hi, hdec⟩ := decode_of_row_opcode r hr w hop
  refine ⟨i, hdec.trans (checkFields_of_zero i hzw ?a ?b), hi⟩
  case a => rw [BitVec.not_not, ← ha]; exact field 8
  case b => rw [BitVec.not_not, ← hb]; exact field 16

/-- R92: no two rows of the command table have the same mnemonic. -/
theorem row_eq_of_mnemonic : ∀ r₁ ∈ commandTable, ∀ r₂ ∈ commandTable,
    r₁.mnemonic = r₂.mnemonic → r₁ = r₂ := by decide

/-- Settles O3: a word decodes to its row's command both ways, and the rows have different opcodes. -/
theorem wordSelectsItsTableRow : Obligations.WordSelectsItsTableRow := by
  unfold Obligations.WordSelectsItsTableRow
  intro w
  refine ⟨fun r hr => ⟨decode_of_row hr, ?selects⟩, fun i hi => row_of_decode hi, ?disjoint⟩
  case selects =>
    rintro ⟨i, hi, hname⟩
    obtain ⟨r', hr', hname', hm⟩ := row_of_decode hi
    obtain rfl := row_eq_of_mnemonic r' hr' r hr (hname'.trans hname)
    exact hm
  case disjoint =>
    intro r₁ h₁ r₂ h₂ hm₁ hm₂
    exact row_eq_of_opcode r₁ h₁ r₂ h₂ ((opcode_of_row h₁ hm₁).trans (opcode_of_row h₂ hm₂).symm)

/-- Settles O4: the eight words, evaluated. -/
theorem specWordsDecode : Obligations.SpecWordsDecode := by
  unfold Obligations.SpecWordsDecode
  decide

end Sys2Proof

/-! PROOFS of the family other: one step of the machine (R13, R28, R78), and that no state stops it (R214, R250). -/

namespace Sys2Proof.Machine

/-- R13, R78: a step performs the event at the head of the list. -/
theorem step_of_pending {s : State} {e : HostEvent} {rest : List HostEvent} (h : s.pending = e :: rest) :
    step s = perform e { s with pending := rest } := by
  simp only [step, performNext, h]

/-- R28: a step whose event writes a legal word to CMD runs its command. -/
theorem step_of_command {s : State} {w : Word} {i : Instr} {rest : List HostEvent}
    (h : s.pending = .write 0x000#12 w :: rest) (hw : decode w = .ok i) :
    step s = exec i { s with pending := rest } := by
  rw [step_of_pending h]
  exact (regWrite_of_cmd (n := 0x000#12) rfl).trans (execWord_of_decode hw _)

/-- Settles O6: number 0 is CMD, and a write to CMD of a legal word runs its command. -/
theorem stepRunsDecodedCommand : Obligations.StepRunsDecodedCommand := by
  unfold Obligations.StepRunsDecodedCommand
  exact fun _ _ _ _ h hw => step_of_command h hw

/-- Settles O7: the list of pending events is empty, or its head is performed. -/
theorem stepPerformsNextEvent : Obligations.StepPerformsNextEvent := by
  unfold Obligations.StepPerformsNextEvent
  intro s rest
  refine ⟨fun h => ?idle, fun n h => step_of_pending h, fun n v h => step_of_pending h, fun h => step_of_pending h⟩
  case idle => simp only [step, performNext, h]

/-- R214: every command completes. -/
theorem exec_proceeds (i : Instr) (s : State) : ∃ t, exec i s = .next t := by
  cases i <;> exact ⟨_, rfl⟩

/-- R93, R214: every word written to CMD completes. -/
theorem execWord_proceeds (w : Word) (s : State) : ∃ t, execWord w s = .next t := by
  rcases execWord_cases w s with ⟨i, -, h⟩ | ⟨_, -, h⟩
  · rw [h]; exact exec_proceeds i s
  · exact ⟨_, h⟩

/-- R73, R214: every register write completes. -/
theorem regWrite_proceeds (n : RegNum) (v : Word) (s : State) : ∃ t, regWrite n v s = .next t := by
  rcases regWrite_cases n v s with ⟨-, h⟩ | ⟨-, h⟩ | ⟨_, -, -, h⟩
  · exact ⟨_, h⟩
  · rw [h]; exact execWord_proceeds v s
  · exact ⟨_, h⟩

/-- Settles O8: each kind of event completes. -/
theorem everyStepProceeds : Obligations.EveryStepProceeds := by
  unfold Obligations.EveryStepProceeds
  intro s
  rcases step_cases s with ⟨-, h⟩ | ⟨_, _, -, h⟩ | ⟨n, v, _, -, h⟩ | ⟨_, -, h⟩
  · exact ⟨_, h⟩
  · exact ⟨_, h⟩
  · rw [h]; exact regWrite_proceeds n v _
  · exact ⟨_, h⟩

end Sys2Proof.Machine

/-! PROOFS of the family other: what a read returns at each number, and that no two numbers alias (R22, R71 to R73). -/

namespace Sys2Proof.Machine

/-- R72: a byte register reads the byte held under its number. -/
theorem regRead_byte {n : RegNum} (s : State) (h : ByteRegister n) :
    regRead n s = (s.buf.read n.toNat).setWidth 32 := by
  obtain ⟨b, hb⟩ := h.covered
  simp only [regRead, regAt_of_covers hb]
  rfl

/-- R72: an unmapped number reads 0. -/
theorem regRead_unmapped {n : RegNum} (s : State) (h : Unmapped n) : regRead n s = 0#32 := by
  simp only [regRead, h.regAt]

/-- Settles O9: the named registers by evaluating the map at their numbers, the bytes and the unmapped numbers by
their ranges. -/
theorem everyNumberReadsItsRegister : Obligations.EveryNumberReadsItsRegister := by
  unfold Obligations.EveryNumberReadsItsRegister
  intro s
  refine ⟨rfl, rfl, rfl, rfl, rfl, rfl, rfl, rfl, rfl, rfl, rfl, rfl, rfl, rfl, rfl, rfl, rfl, rfl, rfl, rfl, rfl,
    rfl, rfl, rfl, rfl, rfl, rfl, rfl, ?bytes, ?unmapped⟩
  case bytes => exact fun _ h => regRead_byte s h
  case unmapped => exact fun _ h => regRead_unmapped s h

/-- R22: a register has one number. -/
theorem regAt_injective {n m : RegNum} {r : Reg} (hn : regAt n = some r) (hm : regAt m = some r) : n = m :=
  (regAt_number hn).symm.trans (regAt_number hm)

/-- R21, R73: the host may store `v` into the register. -/
abbrev Reg.Takes (r : Reg) (v : Word) : Prop :=
  r.access = .rw ∨ ∃ max, r.access = .rwChecked max ∧ v.toNat ≤ max

/-- R73: what a register write leaves: a flag of ERR raised, a value that its register takes stored, or what the word
written to CMD does. -/
theorem regWrite_next_cases {n : RegNum} {v : Word} {s t : State} (h : regWrite n v s = .next t) :
    (∃ f, t = s.flagErr f) ∨
    (∃ r, regAt n = some r ∧ r.Takes v ∧ t = r.store v s) ∨
    (regAt n = some .cmd ∧ execWord v s = .next t) := by
  rcases regWrite_cases n v s with ⟨-, he⟩ | ⟨hc, he⟩ | ⟨r, hr, hn, he⟩
  · exact .inl ⟨_, Host.Outcome.next.inj (h.symm.trans he)⟩
  · exact .inr (.inr ⟨hc, he.symm.trans h⟩)
  · have ht : t = r.write v s := Host.Outcome.next.inj (h.symm.trans he)
    rcases Reg.write_cases v s r with ⟨-, hw⟩ | ⟨_, -, -, hw⟩ | ⟨max, hmax, hv, hw⟩ | ⟨hrw, hw⟩ | ⟨hwo, -⟩
    · exact .inl ⟨_, ht.trans hw⟩
    · exact .inl ⟨_, ht.trans hw⟩
    · exact .inr (.inl ⟨r, hn, .inr ⟨max, hmax, hv⟩, ht.trans hw⟩)
    · exact .inr (.inl ⟨r, hn, .inl hrw, ht.trans hw⟩)
    · exact absurd ((Reg.access_eq_wo_iff r).mp hwo) hr

/-- R22: a store to the register at one number is not seen at another. -/
theorem regRead_store_of_ne {n m : RegNum} {r : Reg} (v : Word) (s : State) (hnm : n ≠ m)
    (hn : regAt n = some r) : regRead m (r.store v s) = regRead m s := by
  simp only [regRead]
  cases hm : regAt m with
  | none => rfl
  | some r' =>
    refine Reg.load_store_of_ne v s (fun hrr => hnm (regAt_injective hn (hrr ▸ hm))) ?bytes
    case bytes =>
      rintro b k b' k' rfl rfl hk
      obtain ⟨hkn, -⟩ := regAt_byte hn
      obtain ⟨hkm, -⟩ := regAt_byte hm
      exact hnm (BitVec.eq_of_toNat_eq (hkn.symm.trans (hk.trans hkm)))

/-- R10: a flag of ERR is seen at the number of ERR alone. -/
theorem regRead_flagErr_of_ne {m : RegNum} (f : ErrFlag) (s : State) (hm : m ≠ 0x002#12) :
    regRead m (s.flagErr f) = regRead m s := by
  simp only [regRead]
  cases hr : regAt m with
  | none => rfl
  | some r =>
    refine Reg.load_flagErr s f fun herr => hm ?_
    exact regAt_injective (herr ▸ hr) (rfl : regAt 0x002#12 = some .err)

/-- Settles O11: a register stands at its own number, so different numbers hold different registers; a write flags ERR
or stores into one register. -/
theorem noTwoNumbersAlias : Obligations.NoTwoNumbersAlias := by
  unfold Obligations.NoTwoNumbersAlias
  refine ⟨fun n m r => regAt_injective, fun n m v s t hnm hn hm h => ?_⟩
  rcases regWrite_next_cases h with ⟨f, rfl⟩ | ⟨r, hr, -, rfl⟩ | ⟨hc, -⟩
  · exact regRead_flagErr_of_ne f s hm
  · exact regRead_store_of_ne v s hnm hr
  · exact absurd (regAt_injective hc (rfl : regAt 0x000#12 = some .cmd)) hn

end Sys2Proof.Machine

/-! PROOFS of the family other: what a command leaves, register by register: the flags it raises apart from the rest
(R10, R24, R25), and with a command's branches moved into the values of the registers that it writes. -/

namespace Sys2Proof

open Sys2Proof.Machine

/-- R24, R184, R190: the bits of STATUS that a command raises. -/
def Instr.raisedStatus (s : State) : Instr → BitVec 5
  | .absorb => if fragmentOk (unpack s.rawFrame) then 0#5 else 0x02#5
  | .verify => if crc16ok s.asmBytes then 0x01#5 else 0x04#5
  | .nop | .sreset | .c16clr | .c16upd _ | .c8clr | .c8upd _ | .pack | .bldinfo | .bldcmd _ _ | .bldlim _ | .ident
  | .field _ _ | .rstasm | .assemble | .asmzero => 0#5

/-- R25, R143, R162, R166, R188: the bits of ERR that a command raises. -/
def Instr.raisedErr (s : State) : Instr → BitVec 6
  | .pack => if 32 < frameLength s.txpLen.toNat s.ctrl then 0x04#6 else 0#6
  | .ident => if (familyOf s.serial).isSome then 0#6 else 0x01#6
  | .field a b => if b.toNat = 0 ∨ 4 < b.toNat ∨ s.asmLen.toNat < a.toNat + b.toNat then 0x10#6 else 0#6
  | .assemble => if s.outst = 0#4 then 0#6 else 0x20#6
  | .nop | .sreset | .c16clr | .c16upd _ | .c8clr | .c8upd _ | .bldinfo | .bldcmd _ _ | .bldlim _ | .rstasm | .absorb
  | .verify | .asmzero => 0#6

/-- R140, R143: what a build of the payload `p` with `m` in MODIFIER leaves in the registers other than ERR. -/
def Machine.State.built (t : Byte) (p : List Byte) (m : BitVec 16) (s : State) : State :=
  { s with
    modifier := m
    buf := (s.buf.writeBytes Config.txpBase p).writeBytes Config.txfBase
      (frameBytes t s.invAddr s.dtuAddr s.frameId
        ((s.buf.writeBytes Config.txpBase p).readBytes Config.txpBase p.length) 1#1)
    txpLen := BitVec.ofNat 5 p.length
    txfLen := BitVec.ofNat 6 (p.length + 13)
    result := BitVec.ofNat 32 (p.length + 13) }

/-- What a command leaves in the registers other than STATUS and ERR (SRESET: in all of them). -/
def Instr.data (s : State) : Instr → State
  | .nop => s
  | .sreset => s.resetBlock
  | .c16clr => { s with c16 := crc16Seed }
  | .c16upd a => { s with c16 := crc16Step s.c16 a }
  | .c8clr => { s with c8 := crc8Seed }
  | .c8upd a => { s with c8 := crc8Step s.c8 a }
  | .pack =>
    let len := frameLength s.txpLen.toNat s.ctrl
    { s with
      txfLen := if 32 < len then 0#6 else BitVec.ofNat 6 len
      result := if 32 < len then 0#32 else BitVec.ofNat 32 len
      buf := if 32 < len then s.buf else s.buf.writeBytes Config.txfBase
        (frameBytes s.typeByte s.invAddr s.dtuAddr s.frameId
          (s.buf.readBytes Config.txpBase s.txpLen.toNat) s.ctrl) }
  | .bldinfo => s.built Config.typeInfo (infoPayload s.epoch) s.modifier
  | .bldcmd a b => s.built Config.typeCtrl (cmdPayload a (b.getLsbD 0) s.value s.modifier) s.modifier
  | .bldlim b =>
    let m := limitModifier (b.getLsbD 0) (b.getLsbD 1)
    s.built Config.typeCtrl (cmdPayload Config.cmdSetPowerLimit true s.value m) m
  | .ident =>
    let f := familyOf s.serial
    { s with
      family := f.elim 0#2 familyNumber
      result := f.elim 0#32 fun g => (familyNumber g).setWidth 32
      totLen := f.elim s.totLen familyTotLen
      nfrag := f.elim s.nfrag familyNfrag
      fragId0 := f.elim s.fragId0 (familyFragId · 0)
      fragId1 := f.elim s.fragId1 (familyFragId · 1)
      fragId2 := f.elim s.fragId2 (familyFragId · 2)
      fragId3 := f.elim s.fragId3 (familyFragId · 3) }
  | .field a b =>
    { s with
      result := if b.toNat = 0 ∨ 4 < b.toNat ∨ s.asmLen.toNat < a.toNat + b.toNat then 0#32
        else fieldValue s.asmBytes a.toNat b.toNat (validMask s.timedOut) }
  | .rstasm => s.rstasm
  | .absorb =>
    let f := unpack s.rawFrame
    { s with
      buf := if fragmentOk f then (s.absorbGood f).buf else s.buf
      coll := if fragmentOk f then (s.absorbGood f).coll else s.coll
      outst := if fragmentOk f then (s.absorbGood f).outst else s.outst
      result := if fragmentOk f then satisfiedResult (s.absorbGood f).outst else 0#32 }
  | .assemble =>
    { s with
      asmLen := BitVec.ofNat 7 s.asmLength
      result := BitVec.ofNat 32 s.asmLength
      draws := s.draws + missingBelow s.coll s.asmLength
      buf := s.buf.writeBytes Config.asmBase ((List.range s.asmLength).map s.assembledByte) }
  | .verify =>
    { s with
      result := if crc16ok s.asmBytes then 1#32 else 0#32
      outst := if crc16ok s.asmBytes then s.outst else s.rstasm.outst
      coll := if crc16ok s.asmBytes then s.coll else s.rstasm.coll }
  | .asmzero =>
    { s with
      asmLen := s.totLen
      buf := s.buf.writeBytes Config.asmBase (List.replicate s.totLen.toNat 0x00#8) }

end Sys2Proof

namespace Sys2Proof.Machine

/-- Raising no flag leaves the flags. -/
theorem raise_none (s : State) : { s with status := s.status ||| 0#5, err := s.err ||| 0#6 } = s := by
  rw [BitVec.or_zero, BitVec.or_zero]

/-- R218: a command other than SRESET raises its flags and leaves its data; it does nothing else. -/
theorem exec_eq {i : Instr} (s : State) (hi : i ≠ .sreset) : exec i s = .next { i.data s with
    status := s.status ||| i.raisedStatus s
    err := s.err ||| i.raisedErr s } := by
  cases i with
  | sreset => exact absurd rfl hi
  | pack =>
    rcases execPack_cases s with ⟨hlong, he⟩ | ⟨hfits, he⟩
    · simp only [he, Instr.data, Instr.raisedStatus, Instr.raisedErr, if_pos hlong, BitVec.or_zero]
      rfl
    · simp only [he, Instr.data, Instr.raisedStatus, Instr.raisedErr, if_neg (Nat.not_lt.mpr hfits), BitVec.or_zero]
  | bldinfo =>
    rw [execBldinfo_eq, State.build_eq _ (by simp)]
    exact congrArg Host.Outcome.next (raise_none _).symm
  | bldcmd a b =>
    rw [execBldcmd_eq, State.build_eq _ (cmdPayload_length_le _ _ _ _)]
    exact congrArg Host.Outcome.next (raise_none _).symm
  | bldlim b =>
    rw [execBldlim_eq, State.build_eq _ (cmdPayload_length_le _ _ _ _)]
    exact congrArg Host.Outcome.next (raise_none _).symm
  | ident =>
    rcases execIdent_cases s with ⟨hnone, he⟩ | ⟨f, hf, he⟩
    · simp only [he, Instr.data, Instr.raisedStatus, Instr.raisedErr, hnone, BitVec.or_zero]
      rfl
    · simp only [he, Instr.data, Instr.raisedStatus, Instr.raisedErr, hf, Option.isSome_some, if_true,
        BitVec.or_zero]
      rfl
  | field a b =>
    rcases execField_cases a b s with ⟨hout, he⟩ | ⟨hin, he⟩
    · simp only [he, Instr.data, Instr.raisedStatus, Instr.raisedErr, if_pos hout, BitVec.or_zero]
      rfl
    · simp only [he, Instr.data, Instr.raisedStatus, Instr.raisedErr, if_neg hin, BitVec.or_zero]
  | absorb =>
    rcases execAbsorb_cases s with ⟨hbad, he⟩ | ⟨hgood, he⟩
    · simp only [he, Instr.data, Instr.raisedStatus, Instr.raisedErr, hbad, BitVec.or_zero]
      rfl
    · simp only [he, Instr.data, Instr.raisedStatus, Instr.raisedErr, hgood, if_true, BitVec.or_zero]
      rw [State.absorbGood_frame]
  | assemble =>
    rw [execAssemble_eq]
    by_cases hdone : s.outst = 0#4
    · simp only [Instr.data, Instr.raisedStatus, Instr.raisedErr, if_pos hdone, BitVec.or_zero]
    · simp only [Instr.data, Instr.raisedStatus, Instr.raisedErr, if_neg hdone, BitVec.or_zero]
      rfl
  | verify =>
    rcases execVerify_cases s with ⟨hmatch, he⟩ | ⟨hmismatch, he⟩
    · simp only [he, Instr.data, Instr.raisedStatus, Instr.raisedErr, hmatch, if_true, BitVec.or_zero]
      rfl
    · simp only [he, Instr.data, Instr.raisedStatus, Instr.raisedErr, hmismatch, BitVec.or_zero]
      rfl
  | _ => exact congrArg Host.Outcome.next (raise_none _).symm

/-- R218: the state that a command other than SRESET leaves. -/
theorem exec_next_eq {i : Instr} {s t : State} (hi : i ≠ .sreset) (h : exec i s = .next t) :
    t = { i.data s with status := s.status ||| i.raisedStatus s, err := s.err ||| i.raisedErr s } :=
  Host.Outcome.next.inj (h.symm.trans (exec_eq s hi))

end Sys2Proof.Machine

/-! PROOFS of the family other: which flags and registers a command reads and writes (R22, R24 to R32, R242). -/

namespace Sys2Proof.Machine

/-! ### Flags -/

/-- R24, R25, R220: the bits that a command raises are one bit of STATUS or of ERR, or none. -/
theorem raised_at_most_one (i : Instr) (s : State) :
    (i.raisedErr s = 0#6 ∧ (i.raisedStatus s = 0#5 ∨ i.raisedStatus s = 0x01#5 ∨ i.raisedStatus s = 0x02#5 ∨
      i.raisedStatus s = 0x04#5)) ∨
    (i.raisedStatus s = 0#5 ∧ (i.raisedErr s = 0x01#6 ∨ i.raisedErr s = 0x04#6 ∨ i.raisedErr s = 0x10#6 ∨
      i.raisedErr s = 0x20#6)) := by
  cases i with
  | pack | ident | field a b | absorb | assemble | verify =>
    simp only [Instr.raisedStatus, Instr.raisedErr]
    split <;> simp
  | _ => exact .inl ⟨rfl, .inl rfl⟩

/-- Settles O12: a command raises the bits of `raised_at_most_one`, and STATUS and ERR keep the others. -/
theorem commandRaisesAtMostOneFlag : Obligations.CommandRaisesAtMostOneFlag := by
  unfold Obligations.CommandRaisesAtMostOneFlag
  intro i s t hi h
  obtain rfl := exec_next_eq hi h
  rcases raised_at_most_one i s with ⟨he, hs⟩ | ⟨hs, he⟩
  · refine .inl ⟨by rw [he, BitVec.or_zero], ?_⟩
    rcases hs with hs | hs | hs | hs <;> simp [hs]
  · refine .inr ⟨by rw [hs, BitVec.or_zero], ?_⟩
    rcases he with he | he | he | he <;> simp [he]

/-! ### What a command does not read

Below, `cases s` before `simp` makes the kernel compare the named fields alone, not two whole states. -/

/-- R184: one round of ABSORB's loop, with its test moved into the values of OUTST, COLL and the buffers. -/
theorem State.absorbAt_eq (f : Fragment) (s : State) (i : Fin 4) :
    State.absorbAt f s i = { s with
      buf := if s.expects f i then s.buf.writeBytes (Config.slotBase + Config.fragPayload * i.val) f.payload else s.buf
      coll := if s.expects f i then setBit s.coll i.val else s.coll
      outst := if s.expects f i then clearBit s.outst i.val else s.outst } := by
  by_cases h : s.expects f i
  · rw [State.absorbAt_of_expects h, if_pos h, if_pos h, if_pos h]
  · rw [State.absorbAt_of_not h, if_neg h, if_neg h, if_neg h]

/-- R184: the loop of ABSORB reads NFRAG, FRAGID, OUTST, COLL and the buffers alone. -/
theorem State.absorbGood_of_unread (g : Fragment) (s : State) (x : BitVec 5) (y : BitVec 6) (f : BitVec 2)
    (r : BitVec 32) (c : BitVec 16) (d : BitVec 8) :
    State.absorbGood g { s with status := x, err := y, family := f, result := r, c16 := c, c8 := d } =
      { s.absorbGood g with status := x, err := y, family := f, result := r, c16 := c, c8 := d } := by
  simp only [State.absorbGood, List.foldl_cons, List.foldl_nil, State.absorbAt_eq]
  rfl

/-- R143: a build does not read the flags, FAMILY, RESULT, C16 or C8. -/
theorem State.built_of_unread (t : Byte) (p : List Byte) (m : BitVec 16) (s : State) (x : BitVec 5) (y : BitVec 6)
    (f : BitVec 2) (r : BitVec 32) (c : BitVec 16) (d : BitVec 8) :
    State.built t p m { s with status := x, err := y, family := f, result := r, c16 := c, c8 := d } =
      { s.built t p m with status := x, err := y, family := f, c16 := c, c8 := d } :=
  rfl

/-- R24 to R26, R32: what a command leaves does not depend on the flags, on FAMILY or on RESULT, but that FIELD reads
timedOut; it writes RESULT and FAMILY or leaves them. -/
theorem data_of_unread {i : Instr} (s : State) (hi : i ≠ .sreset) (x : BitVec 5) (y : BitVec 6) (f : BitVec 2)
    (r : BitVec 32) (hx : (∃ a b, i = .field a b) → x.getLsbD 3 = s.status.getLsbD 3) :
    i.data { s with status := x, err := y, family := f, result := r } = { i.data s with
      status := x
      err := y
      family := if i = .ident then (i.data s).family else f
      result := if i.writesResult then (i.data s).result else r } := by
  cases i with
  | sreset => exact absurd rfl hi
  | field a b =>
    have ht : State.timedOut { s with status := x, err := y, family := f, result := r } = s.timedOut := hx ⟨a, b, rfl⟩
    simp only [Instr.data, ht]
    rfl
  | absorb =>
    have hg := State.absorbGood_of_unread (unpack s.rawFrame) s x y f r s.c16 s.c8
    have hraw : State.rawFrame { s with status := x, err := y, family := f, result := r } = s.rawFrame := rfl
    simp only [Instr.data, hraw, hg]
    rfl
  | bldinfo =>
    simp only [Instr.data, Instr.writesResult, reduceCtorEq, if_false, if_true]
    exact State.built_of_unread _ _ _ s x y f r s.c16 s.c8
  | bldcmd a b =>
    simp only [Instr.data, Instr.writesResult, reduceCtorEq, if_false, if_true]
    exact State.built_of_unread _ _ _ s x y f r s.c16 s.c8
  | bldlim b =>
    simp only [Instr.data, Instr.writesResult, reduceCtorEq, if_false, if_true]
    exact State.built_of_unread _ _ _ s x y f r s.c16 s.c8
  | _ => rfl

/-- R24 to R26, R32: nor do the flags that it raises. -/
theorem raised_of_unread (i : Instr) (s : State) (x : BitVec 5) (y : BitVec 6) (f : BitVec 2) (r : BitVec 32) :
    i.raisedStatus { s with status := x, err := y, family := f, result := r } = i.raisedStatus s ∧
      i.raisedErr { s with status := x, err := y, family := f, result := r } = i.raisedErr s := by
  cases i <;> exact ⟨rfl, rfl⟩

/-- Settles O13: the flags raised and what is left do not depend on the values overwritten. -/
theorem noCommandReadsFlagsOrResult : Obligations.NoCommandReadsFlagsOrResult := by
  unfold Obligations.NoCommandReadsFlagsOrResult
  intro i s t h
  refine ⟨?sreset, fun hi => ?others⟩
  case sreset =>
    rintro rfl x y f r
    exact h
  case others =>
    obtain rfl := exec_next_eq hi h
    refine ⟨i.raisedStatus s, i.raisedErr s, rfl, rfl, fun x y f r hx => ?_⟩
    obtain ⟨hs, he⟩ := raised_of_unread i s x y f r
    rw [exec_eq _ hi, hs, he, data_of_unread s hi x y f r hx]

/-! ### What a command leaves -/

/-- Settles O14: what each of these commands leaves has the RESULT from before. -/
theorem resultWrittenOnlyByItsCommands : Obligations.ResultWrittenOnlyByItsCommands := by
  unfold Obligations.ResultWrittenOnlyByItsCommands
  rintro i s t hi h
  rcases hi with rfl | rfl | ⟨a, rfl⟩ | rfl | ⟨a, rfl⟩ | rfl | rfl
  all_goals
    obtain rfl := exec_next_eq (by simp) h
    rfl

/-- R29, R30: C16 and C8 are left by the commands that are not theirs. -/
theorem data_streaming {i : Instr} (s : State) (hreset : i ≠ .sreset) (h16clr : i ≠ .c16clr)
    (h16upd : ∀ a, i ≠ .c16upd a) (h8clr : i ≠ .c8clr) (h8upd : ∀ a, i ≠ .c8upd a) :
    (i.data s).c16 = s.c16 ∧ (i.data s).c8 = s.c8 := by
  cases i with
  | sreset => exact absurd rfl hreset
  | c16clr => exact absurd rfl h16clr
  | c16upd a => exact absurd rfl (h16upd a)
  | c8clr => exact absurd rfl h8clr
  | c8upd a => exact absurd rfl (h8upd a)
  | _ => cases s; simp [Instr.data, State.built]

/-- R29, R30: what the others leave does not depend on C16 or C8. -/
theorem data_of_other_streaming {i : Instr} (s : State) (hreset : i ≠ .sreset) (h16clr : i ≠ .c16clr)
    (h16upd : ∀ a, i ≠ .c16upd a) (h8clr : i ≠ .c8clr) (h8upd : ∀ a, i ≠ .c8upd a) (x : BitVec 16) (y : BitVec 8) :
    i.data { s with c16 := x, c8 := y } = { i.data s with c16 := x, c8 := y } := by
  have built (t : Byte) (p : List Byte) (m : BitVec 16) :
      State.built t p m { s with c16 := x, c8 := y } = { s.built t p m with c16 := x, c8 := y } := rfl
  cases i with
  | sreset => exact absurd rfl hreset
  | c16clr => exact absurd rfl h16clr
  | c16upd a => exact absurd rfl (h16upd a)
  | c8clr => exact absurd rfl h8clr
  | c8upd a => exact absurd rfl (h8upd a)
  | absorb =>
    have hg := State.absorbGood_of_unread (unpack s.rawFrame) s s.status s.err s.family s.result x y
    have hraw : State.rawFrame { s with c16 := x, c8 := y } = s.rawFrame := rfl
    simp only [Instr.data, hraw, hg]
  | bldinfo => exact built _ _ _
  | bldcmd a b => exact built _ _ _
  | bldlim b => exact built _ _ _
  | _ => rfl

/-- R29, R30: nor do the flags that a command raises. -/
theorem raised_of_other_streaming (i : Instr) (s : State) (x : BitVec 16) (y : BitVec 8) :
    i.raisedStatus { s with c16 := x, c8 := y } = i.raisedStatus s ∧
      i.raisedErr { s with c16 := x, c8 := y } = i.raisedErr s := by
  cases i <;> exact ⟨rfl, rfl⟩

/-- Settles O15: the flags and the data of another command neither read nor write C16 or C8. -/
theorem streamingRegistersApart : Obligations.StreamingRegistersApart := by
  unfold Obligations.StreamingRegistersApart
  intro i s t x y hreset h16clr h16upd h8clr h8upd h
  obtain rfl := exec_next_eq hreset h
  obtain ⟨h16, h8⟩ := data_streaming s hreset h16clr h16upd h8clr h8upd
  obtain ⟨hs, he⟩ := raised_of_other_streaming i s x y
  refine ⟨h16, h8, ?_⟩
  rw [exec_eq _ hreset, hs, he, data_of_other_streaming s hreset h16clr h16upd h8clr h8upd]

/-- R42: states with the same FRAGID0 to FRAGID3 have the same id at each schema position. -/
theorem State.fragId_congr {s t : State} (h0 : t.fragId0 = s.fragId0) (h1 : t.fragId1 = s.fragId1)
    (h2 : t.fragId2 = s.fragId2) (h3 : t.fragId3 = s.fragId3) (k : Fin 4) : t.fragId k = s.fragId k :=
  match k with
  | 0 => h0
  | 1 => h1
  | 2 => h2
  | 3 => h3

/-- R242: no command but SRESET writes what the host set up, apart from MODIFIER and the schema. -/
theorem data_setup {i : Instr} (s : State) (hi : i ≠ .sreset) :
    (i.data s).ctrl = s.ctrl ∧ (i.data s).serialLo = s.serialLo ∧ (i.data s).serialHi = s.serialHi ∧
    (i.data s).invAddr = s.invAddr ∧ (i.data s).dtuAddr = s.dtuAddr ∧ (i.data s).typeByte = s.typeByte ∧
    (i.data s).frameId = s.frameId ∧ (i.data s).epoch = s.epoch ∧ (i.data s).value = s.value := by
  cases i with
  | sreset => exact absurd rfl hi
  | _ => cases s; simp [Instr.data, State.built]

/-- R150, R242: MODIFIER is written by BLDLIM and SRESET alone. -/
theorem data_modifier {i : Instr} (s : State) (hi : i ≠ .sreset) (hb : ∀ b, i ≠ .bldlim b) :
    (i.data s).modifier = s.modifier := by
  cases i with
  | sreset => exact absurd rfl hi
  | bldlim b => exact absurd rfl (hb b)
  | _ => cases s; simp [Instr.data, State.built]

/-- R162, R242: FAMILY and the schema registers are written by IDENT and SRESET alone. -/
theorem data_schema {i : Instr} (s : State) (hi : i ≠ .sreset) (hident : i ≠ .ident) :
    (i.data s).family = s.family ∧ (i.data s).nfrag = s.nfrag ∧ (i.data s).totLen = s.totLen ∧
    (i.data s).fragId0 = s.fragId0 ∧ (i.data s).fragId1 = s.fragId1 ∧ (i.data s).fragId2 = s.fragId2 ∧
    (i.data s).fragId3 = s.fragId3 := by
  cases i with
  | sreset => exact absurd rfl hi
  | ident => exact absurd rfl hident
  | _ => cases s; simp [Instr.data, State.built]

/-- Settles O16: a command raises flags besides its data, which has the set-up registers from before. -/
theorem setupHolds : Obligations.SetupHolds := by
  unfold Obligations.SetupHolds
  intro i s t hi h
  obtain rfl := exec_next_eq hi h
  obtain ⟨hctrl, hlo, hhi, hinv, hdtu, htype, hid, hepoch, hvalue⟩ := data_setup s hi
  refine ⟨hctrl, hlo, hhi, hinv, hdtu, htype, hid, hepoch, hvalue, data_modifier s hi, fun hident => ?schema⟩
  case schema =>
    obtain ⟨hfamily, hnfrag, htotLen, h0, h1, h2, h3⟩ := data_schema s hi hident
    exact ⟨hfamily, hnfrag, htotLen, State.fragId_congr h0 h1 h2 h3⟩

end Sys2Proof.Machine

/-! PROOFS of the family other: which buffers a command writes (R46 to R50), and what stays of the frames and of the
reassembly (R47, R48, R183). -/

namespace Sys2Proof

open Sys2Proof.Machine

/-- The buffers that a command other than SRESET writes (R143, R148, R184, R188, R192). -/
def Instr.buffers : Instr → List Buffer
  | .pack => [.txf]
  | .bldinfo | .bldcmd _ _ | .bldlim _ => [.txp, .txf]
  | .absorb => [.slot]
  | .assemble | .asmzero => [.asm]
  | .nop | .sreset | .c16clr | .c16upd _ | .c8clr | .c8upd _ | .ident | .field _ _ | .rstasm | .verify => []

end Sys2Proof

namespace Sys2Proof.Machine

/-! ### Stores into some of the buffers -/

/-- `m'` comes from `m` by storing bytes at numbers of the buffers `bs` alone. -/
inductive Memory.Stored (bs : List Buffer) (m : Memory) : Memory → Prop where
  | refl : Memory.Stored bs m m
  | write {m' : Memory} {b : Buffer} {a : Nat} (h : Memory.Stored bs m m') (hb : b ∈ bs) (ha : b.covers a = true)
      (v : Byte) : Memory.Stored bs m (m'.write a v)

section

variable {bs : List Buffer} {m m' : Memory}

/-- A number of no buffer in `bs` keeps its byte. -/
theorem Memory.Stored.read_eq (h : Memory.Stored bs m m') {a : Nat} (ha : ∀ b ∈ bs, b.covers a = false) :
    m'.read a = m.read a := by
  induction h with
  | refl => rfl
  | @write m' b c _ hb hc v ih =>
    have hac : a ≠ c := by
      rintro rfl
      exact absurd hc (Bool.eq_false_iff.mp (ha b hb))
    rw [Memory.read_write_of_ne _ _ hac, ih]

/-- The canonical form is kept. -/
theorem Memory.Stored.wf (h : Memory.Stored bs m m') (hm : m.wf = true) : m'.wf = true := by
  induction h with
  | refl => exact hm
  | write _ _ _ _ ih => exact Memory.wf_write ih _ _

/-- A buffer's number is that of a buffer register. -/
theorem isBufferNumber_of_covers {b : Buffer} {a : Nat} (h : b.covers a = true) : isBufferNumber a = true := by
  rw [isBufferNumber, bufferReg_of_covers h]
  rfl

/-- The memory still holds bytes at buffer registers only. -/
theorem Memory.Stored.onlyBuffers (h : Memory.Stored bs m m') (hm : m.onlyBuffers = true) :
    m'.onlyBuffers = true := by
  induction h with
  | refl => exact hm
  | write _ _ ha _ ih => exact Memory.onlyBuffers_write ih _ (isBufferNumber_of_covers ha)

/-- A run of bytes within a buffer of `bs`. -/
theorem Memory.Stored.writeBytes (h : Memory.Stored bs m m') {b : Buffer} (hb : b ∈ bs) {a : Nat} {vs : List Byte}
    (hlow : b.base ≤ a) (hhigh : a + vs.length ≤ b.base + b.size) : Memory.Stored bs m (m'.writeBytes a vs) := by
  induction vs generalizing m' a with
  | nil => exact h
  | cons v vs ih =>
    rw [List.length_cons] at hhigh
    have ha : b.covers a = true := (b.covers_iff a).mpr ⟨hlow, by omega⟩
    exact ih (h.write hb ha v) (by omega) (by omega)

end

/-- R184: a round of ABSORB's loop stores into SLOT alone. -/
theorem State.absorbAt_stored {f : Fragment} (hp : f.payload.length = 16) {m : Memory} {s : State} (i : Fin 4)
    (h : Memory.Stored [.slot] m s.buf) : Memory.Stored [.slot] m (State.absorbAt f s i).buf := by
  by_cases hx : s.expects f i
  · rw [State.absorbAt_of_expects hx]
    refine h.writeBytes (b := .slot) (by simp) (Nat.le_add_right _ _) ?_
    simp only [hp, Buffer.base, Buffer.size, Config.slotBase, Config.fragPayload, Config.nslot]
    omega
  · rwa [State.absorbAt_of_not hx]

/-- R184: so does the loop. -/
theorem State.absorbGood_stored {f : Fragment} (hp : f.payload.length = 16) (s : State) :
    Memory.Stored [.slot] s.buf (s.absorbGood f).buf := by
  simp only [State.absorbGood, List.foldl_cons, List.foldl_nil]
  exact absorbAt_stored hp 3 (absorbAt_stored hp 2 (absorbAt_stored hp 1 (absorbAt_stored hp 0 .refl)))

/-- R143: a build whose frame fits stores into TXP and TXF alone. -/
theorem State.built_stored (t : Byte) {p : List Byte} (m : BitVec 16) (s : State) (hp : p.length ≤ 19) :
    Memory.Stored [.txp, .txf] s.buf (s.built t p m).buf := by
  refine (Memory.Stored.refl.writeBytes (b := .txp) (by simp) (Nat.le_refl _) ?payload).writeBytes (b := .txf)
    (by simp) (Nat.le_refl _) ?frame
  case payload => simp only [Buffer.base, Buffer.size, Config.txpBase, Config.txpMax]; omega
  case frame =>
    rw [frameBytes_length, Memory.readBytes_length]
    simp only [frameLength, Buffer.base, Buffer.size, Config.txfBase, Config.txMax, BitVec.toNat_ofNat]
    omega

/-- Within the bounds of R53 a command other than SRESET stores into its own buffers alone. -/
theorem data_stored {i : Instr} {s : State} (hs : s.LengthsLegal) (hi : i ≠ .sreset) :
    Memory.Stored i.buffers s.buf (i.data s).buf := by
  obtain ⟨-, -, -, hnfrag, htotLen⟩ := hs
  cases i with
  | sreset => exact absurd rfl hi
  | pack =>
    simp only [Instr.data]
    split
    next => exact .refl
    next hfits =>
      refine Memory.Stored.refl.writeBytes (b := .txf) (by simp [Instr.buffers]) (Nat.le_refl _) ?_
      rw [frameBytes_length, Memory.readBytes_length]
      exact Nat.add_le_add_left (Nat.not_lt.mp hfits) _
  | bldinfo => exact State.built_stored _ _ s (by simp)
  | bldcmd a b => exact State.built_stored _ _ s (cmdPayload_length_le _ _ _ _)
  | bldlim b => exact State.built_stored _ _ s (cmdPayload_length_le _ _ _ _)
  | absorb =>
    simp only [Instr.data]
    split
    next => exact State.absorbGood_stored (unpack_rawFrame_payload_length s) s
    next => exact .refl
  | assemble =>
    refine Memory.Stored.refl.writeBytes (b := .asm) (by simp [Instr.buffers]) (Nat.le_refl _) ?_
    rw [List.length_map, List.length_range, State.asmLength]
    simp only [Config.fragPayload, Buffer.base, Buffer.size, Config.asmBase, Config.asmMax]
    omega
  | asmzero =>
    refine Memory.Stored.refl.writeBytes (b := .asm) (by simp [Instr.buffers]) (Nat.le_refl _) ?_
    rw [List.length_replicate]
    exact Nat.add_le_add_left htotLen _
  | _ => cases s; exact .refl

/-- A command leaves the bytes of a buffer that is not one of its own. -/
theorem data_read_of_not_mem {i : Instr} {s : State} (hs : s.LengthsLegal) (hi : i ≠ .sreset) {b : Buffer}
    (hb : b ∉ i.buffers) {a : Nat} (ha : b.covers a = true) : (i.data s).buf.read a = s.buf.read a := by
  refine (data_stored hs hi).read_eq fun b' hb' => ?_
  rw [Buffer.covers_unique ha, decide_eq_false_iff_not]
  rintro rfl
  exact hb hb'

/-! ### The frames -/

/-- R48: no command but SRESET writes RXF. -/
theorem rxf_not_mem_buffers (i : Instr) : Buffer.rxf ∉ i.buffers := by
  cases i <;> simp [Instr.buffers]

/-- R47: TXF and TXFLEN are written by the build commands and SRESET alone. -/
theorem txf_not_mem_buffers {i : Instr} (s : State) (hi : i ≠ .sreset) (hpack : i ≠ .pack) (hinfo : i ≠ .bldinfo)
    (hcmd : ∀ a b, i ≠ .bldcmd a b) (hlim : ∀ b, i ≠ .bldlim b) :
    Buffer.txf ∉ i.buffers ∧ (i.data s).txfLen = s.txfLen := by
  cases i with
  | sreset => exact absurd rfl hi
  | pack => exact absurd rfl hpack
  | bldinfo => exact absurd rfl hinfo
  | bldcmd a b => exact absurd rfl (hcmd a b)
  | bldlim b => exact absurd rfl (hlim b)
  | _ => cases s; simp [Instr.buffers, Instr.data]

/-- Settles O17: RXF is no command's buffer, and TXF is that of the build commands. -/
theorem framesKeptByOtherCommands : Obligations.FramesKeptByOtherCommands := by
  unfold Obligations.FramesKeptByOtherCommands
  intro i s t hs hi h
  obtain rfl := exec_next_eq hi h
  obtain ⟨hlen, -, -⟩ := hs
  refine ⟨fun a hlow hhigh => ?rxf, fun hpack hinfo hcmd hlim => ?txf⟩
  case rxf =>
    exact data_read_of_not_mem hlen hi (rxf_not_mem_buffers i) ((Buffer.covers_iff _ _).mpr ⟨hlow, hhigh⟩)
  case txf =>
    obtain ⟨hb, htxfLen⟩ := txf_not_mem_buffers s hi hpack hinfo hcmd hlim
    exact ⟨htxfLen, fun a hlow hhigh => data_read_of_not_mem hlen hi hb ((Buffer.covers_iff _ _).mpr ⟨hlow, hhigh⟩)⟩

/-! ### The reassembly -/

/-- R182, R184, R190: what the data of a command can be in OUTST and COLL. -/
theorem data_outst_coll_cases {i : Instr} (s : State) (hi : i ≠ .sreset) :
    ((i.data s).outst = s.outst ∧ (i.data s).coll = s.coll) ∨
    ((i = .rstasm ∨ i = .verify) ∧ (i.data s).outst = s.rstasm.outst ∧ (i.data s).coll = s.rstasm.coll) ∨
    (i = .absorb ∧ ∃ f, (i.data s).outst = (s.absorbGood f).outst ∧ (i.data s).coll = (s.absorbGood f).coll) := by
  cases i with
  | sreset => exact absurd rfl hi
  | rstasm => exact .inr (.inl ⟨.inl rfl, rfl, rfl⟩)
  | absorb =>
    simp only [Instr.data]
    split
    next => exact .inr (.inr ⟨trivial, _, rfl, rfl⟩)
    next => exact .inl ⟨rfl, rfl⟩
  | verify =>
    simp only [Instr.data]
    split
    next => exact .inl ⟨rfl, rfl⟩
    next => exact .inr (.inl ⟨.inr trivial, rfl, rfl⟩)
  | _ => cases s; simp [Instr.data, State.built]

/-- R184: the loop of ABSORB only clears bits of OUTST and only sets bits of COLL. -/
theorem State.absorbGood_monotone (f : Fragment) (s : State) (k : Nat) :
    ((s.absorbGood f).outst.getLsbD k = true → s.outst.getLsbD k = true) ∧
      (s.coll.getLsbD k = true → (s.absorbGood f).coll.getLsbD k = true) := by
  rcases Nat.lt_or_ge k 4 with hk | hk
  · rw [State.absorbGood_outst f s ⟨k, hk⟩, State.absorbGood_coll f s ⟨k, hk⟩]
    exact ⟨fun h => (Bool.and_eq_true_iff.mp h).1, fun h => by rw [h, Bool.true_or]⟩
  · simp [BitVec.getLsbD_of_ge _ k hk]

/-- R183: SLOT is the buffer of ABSORB alone. -/
theorem slot_not_mem_buffers {i : Instr} (hi : i ≠ .absorb) : Buffer.slot ∉ i.buffers := by
  cases i with
  | absorb => exact absurd rfl hi
  | _ => simp [Instr.buffers]

/-- Settles O39: the three ways of a command with OUTST and COLL, and the buffers that it writes. -/
theorem reassemblyChangesOnlyWhere : Obligations.ReassemblyChangesOnlyWhere := by
  unfold Obligations.ReassemblyChangesOnlyWhere
  intro i s t hs h
  refine ⟨fun hrst habs hver hi => ?others, ?absorb, fun habs hi a hlow hhigh => ?slots⟩
  case others =>
    obtain rfl := exec_next_eq hi h
    rcases data_outst_coll_cases s hi with hkept | ⟨hrst' | hver', -⟩ | ⟨habs', -⟩
    · exact hkept
    · exact absurd hrst' hrst
    · exact absurd hver' hver
    · exact absurd habs' habs
  case absorb =>
    rintro rfl k
    obtain rfl := exec_next_eq (by simp) h
    simp only
    rcases data_outst_coll_cases (i := .absorb) s (by simp) with ⟨ho, hc⟩ | ⟨hrst | hver, -⟩ | ⟨-, f, ho, hc⟩
    · rw [ho, hc]; exact ⟨id, id⟩
    · simp at hrst
    · simp at hver
    · rw [ho, hc]; exact s.absorbGood_monotone f k
  case slots =>
    obtain rfl := exec_next_eq hi h
    obtain ⟨hlen, -, -⟩ := hs
    exact data_read_of_not_mem hlen hi (slot_not_mem_buffers habs) ((Buffer.covers_iff _ _).mpr ⟨hlow, hhigh⟩)

end Sys2Proof.Machine

/-! PROOFS of the family other: what every step keeps (R53): the bounds, the form of the byte buffers (log 6), and the
partition of the schema positions. -/

namespace Sys2Proof.Machine

/-! ### The bounds and the form of the buffers -/

/-- Settles O49: the reset state, evaluated. -/
theorem resetStateIsLegal : Obligations.ResetStateIsLegal := by
  unfold Obligations.ResetStateIsLegal
  decide

/-- R53, R202: the reset block is legal. -/
theorem State.resetBlock_legal (s : State) : s.resetBlock.Legal := resetStateIsLegal.1

/-- R143: a build whose frame fits leaves the lengths of its payload and its frame. -/
theorem State.built_lengthsLegal (t : Byte) {p : List Byte} (m : BitVec 16) {s : State} (hs : s.LengthsLegal)
    (hp : p.length ≤ 19) : (s.built t p m).LengthsLegal := by
  obtain ⟨hasmLen, -, -, hnfrag, htotLen⟩ := hs
  refine ⟨hasmLen, ?txfLen, ?txpLen, hnfrag, htotLen⟩
  case txfLen => simp only [State.built, BitVec.toNat_ofNat]; omega
  case txpLen => simp only [State.built, BitVec.toNat_ofNat]; omega

/-- R161: a family has 4 fragments at most. -/
theorem familyNfrag_le (f : Family) : (familyNfrag f).toNat ≤ 4 := by
  cases f <;> decide

/-- R161: a family's data has 64 bytes at most. -/
theorem familyTotLen_le (f : Family) : (familyTotLen f).toNat ≤ 64 := by
  cases f <;> decide

/-- R53: a command other than SRESET keeps the bounds. -/
theorem data_lengthsLegal {i : Instr} {s : State} (hs : s.LengthsLegal) (hi : i ≠ .sreset) :
    (i.data s).LengthsLegal := by
  have hall := hs
  obtain ⟨hasmLen, htxfLen, htxpLen, hnfrag, htotLen⟩ := hs
  cases i with
  | sreset => exact absurd rfl hi
  | pack =>
    refine ⟨hasmLen, ?_, htxpLen, hnfrag, htotLen⟩
    simp only [Instr.data]
    split
    next => simp
    next hfits => simp only [BitVec.toNat_ofNat]; omega
  | bldinfo => exact State.built_lengthsLegal _ _ hall (by simp)
  | bldcmd a b => exact State.built_lengthsLegal _ _ hall (cmdPayload_length_le _ _ _ _)
  | bldlim b => exact State.built_lengthsLegal _ _ hall (cmdPayload_length_le _ _ _ _)
  | ident =>
    simp only [Instr.data]
    cases familyOf s.serial with
    | none => exact hall
    | some f => exact ⟨hasmLen, htxfLen, htxpLen, familyNfrag_le f, familyTotLen_le f⟩
  | assemble =>
    refine ⟨?_, htxfLen, htxpLen, hnfrag, htotLen⟩
    simp only [Instr.data, State.asmLength, Config.fragPayload, BitVec.toNat_ofNat]
    omega
  | asmzero => exact ⟨htotLen, htxfLen, htxpLen, hnfrag, htotLen⟩
  | _ => cases s; exact hall

/-- R53: every command keeps a legal state legal. -/
theorem exec_legal {i : Instr} {s t : State} (hs : s.Legal) (h : exec i s = .next t) : t.Legal := by
  by_cases hi : i = .sreset
  · subst hi
    rw [← Host.Outcome.next.inj h]
    exact s.resetBlock_legal
  · obtain rfl := exec_next_eq hi h
    obtain ⟨hlen, hwf, honly⟩ := hs
    have hstored := data_stored hlen hi
    exact ⟨data_lengthsLegal hlen hi, hstored.wf hwf, hstored.onlyBuffers honly⟩

/-- R73: a store of a value in the range of its register keeps a legal state legal. -/
theorem Reg.store_legal {n : RegNum} {r : Reg} (v : Word) {s : State} (hs : s.Legal) (hn : regAt n = some r)
    (hr : r.Takes v) : (r.store v s).Legal := by
  have hall := hs
  obtain ⟨⟨hasmLen, htxfLen, htxpLen, hnfrag, htotLen⟩, hwf, honly⟩ := hs
  have fits {w max : Nat} (h : v.toNat ≤ max) : (v.setWidth w).toNat ≤ max := by
    rw [BitVec.toNat_setWidth]
    exact (Nat.mod_le _ _).trans h
  cases r with
  | byte b k =>
    obtain ⟨rfl, hb⟩ := regAt_byte hn
    exact ⟨⟨hasmLen, htxfLen, htxpLen, hnfrag, htotLen⟩, Memory.wf_write hwf _ _,
      Memory.onlyBuffers_write honly _ (isBufferNumber_of_covers hb)⟩
  | txpLen =>
    obtain ⟨max, hmax, hv⟩ := hr.resolve_left (by simp [Reg.access])
    obtain rfl : 21 = max := by simpa [Reg.access] using hmax
    exact ⟨⟨hasmLen, htxfLen, fits hv, hnfrag, htotLen⟩, hwf, honly⟩
  | nfrag =>
    obtain ⟨max, hmax, hv⟩ := hr.resolve_left (by simp [Reg.access])
    obtain rfl : 4 = max := by simpa [Reg.access] using hmax
    exact ⟨⟨hasmLen, htxfLen, htxpLen, fits hv, htotLen⟩, hwf, honly⟩
  | totLen =>
    obtain ⟨max, hmax, hv⟩ := hr.resolve_left (by simp [Reg.access])
    obtain rfl : 64 = max := by simpa [Reg.access] using hmax
    exact ⟨⟨hasmLen, htxfLen, htxpLen, hnfrag, fits hv⟩, hwf, honly⟩
  | txfLen => simp [Reg.Takes, Reg.access] at hr
  | asmLen => simp [Reg.Takes, Reg.access] at hr
  | fragId i => fin_cases i <;> exact hall
  | _ => exact hall

/-- R93: what a word written to CMD leaves: E_OPCODE raised, or what its command does. -/
theorem execWord_next_cases {w : Word} {s t : State} (h : execWord w s = .next t) :
    t = s.flagErr .eOpcode ∨ ∃ i, exec i s = .next t := by
  rcases execWord_cases w s with ⟨i, -, he⟩ | ⟨_, -, he⟩
  · exact .inr ⟨i, he.symm.trans h⟩
  · exact .inl (Host.Outcome.next.inj (h.symm.trans he))

/-- R53: every register write keeps a legal state legal. -/
theorem regWrite_legal {n : RegNum} {v : Word} {s t : State} (hs : s.Legal) (h : regWrite n v s = .next t) :
    t.Legal := by
  rcases regWrite_next_cases h with ⟨f, rfl⟩ | ⟨r, hn, hr, rfl⟩ | ⟨-, hw⟩
  · exact hs
  · exact Reg.store_legal v hs hn hr
  · rcases execWord_next_cases hw with rfl | ⟨i, hi⟩
    · exact hs
    · exact exec_legal hs hi

/-- Settles O50: each kind of event keeps a legal state legal. -/
theorem stepKeepsLegalState : Obligations.StepKeepsLegalState := by
  unfold Obligations.StepKeepsLegalState
  intro s t hs h
  rcases step_cases s with ⟨-, he⟩ | ⟨n, rest, -, he⟩ | ⟨n, v, rest, -, he⟩ | ⟨rest, -, he⟩
  · obtain rfl := Host.Outcome.next.inj (he.symm.trans h)
    exact hs
  · obtain rfl := Host.Outcome.next.inj (he.symm.trans h)
    exact hs
  · exact regWrite_legal (s := { s with pending := rest }) hs (he.symm.trans h)
  · obtain rfl := Host.Outcome.next.inj (he.symm.trans h)
    exact State.resetBlock_legal _

/-! ### The partition of the schema positions -/

/-- R53: the partition depends on NFRAG, OUTST and COLL alone. -/
theorem State.Partitioned.congr {s t : State} (hs : s.Partitioned) (hnfrag : t.nfrag = s.nfrag)
    (houtst : t.outst = s.outst) (hcoll : t.coll = s.coll) : t.Partitioned := by
  intro i
  have hi := hs i
  rwa [State.PositionPartitioned, ← hnfrag, ← houtst, ← hcoll] at hi

/-- R182: `rstasm` awaits the positions below NFRAG and has collected none. -/
theorem State.rstasm_partitioned (s : State) : s.rstasm.Partitioned := by
  intro i
  rw [State.PositionPartitioned, rstasm_outst_getLsbD, State.rstasm_nfrag, State.rstasm_coll, BitVec.getLsbD_zero]
  split
  next h => simp [h]
  next h => simp [h]

/-- R184: a position that expects the fragment moves from awaited to collected; the others stay where they were. -/
theorem State.absorbGood_partitioned (f : Fragment) {s : State} (hs : s.Partitioned) :
    (s.absorbGood f).Partitioned := by
  intro i
  have hi := hs i
  have hnfrag : (s.absorbGood f).nfrag = s.nfrag := by rw [State.absorbGood_frame]
  rw [State.PositionPartitioned] at hi ⊢
  rw [hnfrag, State.absorbGood_outst, State.absorbGood_coll]
  by_cases hx : s.expects f i
  · rw [if_pos hx.1, decide_eq_true hx, Bool.not_true, Bool.and_false, Bool.or_true, Bool.not_true]
  · rwa [decide_eq_false hx, Bool.not_false, Bool.and_true, Bool.or_false]

/-- R53: a command that leaves NFRAG keeps the partition. -/
theorem exec_partitioned {i : Instr} {s t : State} (hs : s.Partitioned) (h : exec i s = .next t)
    (hnfrag : t.nfrag = s.nfrag) : t.Partitioned := by
  by_cases hi : i = .sreset
  · subst hi
    rw [← Host.Outcome.next.inj h]
    exact resetStateIsLegal.2
  · obtain rfl := exec_next_eq hi h
    rcases data_outst_coll_cases s hi with ⟨ho, hc⟩ | ⟨-, ho, hc⟩ | ⟨-, f, ho, hc⟩
    · exact hs.congr hnfrag ho hc
    · exact s.rstasm_partitioned.congr hnfrag ho hc
    · exact (State.absorbGood_partitioned f hs).congr (hnfrag.trans (by rw [State.absorbGood_frame])) ho hc

/-- R43, R44, R73: the host stores into neither OUTST nor COLL. -/
theorem Reg.store_outst_coll (v : Word) (s : State) {r : Reg}
    (hr : r.Takes v) :
    (r.store v s).outst = s.outst ∧ (r.store v s).coll = s.coll := by
  cases r with
  | outst => simp [Reg.Takes, Reg.access] at hr
  | coll => simp [Reg.Takes, Reg.access] at hr
  | fragId i => fin_cases i <;> exact ⟨rfl, rfl⟩
  | _ => exact ⟨rfl, rfl⟩

/-- R53: a register write that leaves NFRAG keeps the partition. -/
theorem regWrite_partitioned {n : RegNum} {v : Word} {s t : State} (hs : s.Partitioned)
    (h : regWrite n v s = .next t) (hnfrag : t.nfrag = s.nfrag) : t.Partitioned := by
  rcases regWrite_next_cases h with ⟨f, rfl⟩ | ⟨r, -, hr, rfl⟩ | ⟨-, hw⟩
  · exact hs
  · obtain ⟨ho, hc⟩ := Reg.store_outst_coll v s hr
    exact hs.congr hnfrag ho hc
  · rcases execWord_next_cases hw with rfl | ⟨i, hi⟩
    · exact hs
    · exact exec_partitioned hs hi hnfrag

/-- Settles O51: each kind of event that leaves NFRAG keeps the partition, and RSTASM makes one. -/
theorem stepKeepsPartition : Obligations.StepKeepsPartition := by
  unfold Obligations.StepKeepsPartition
  refine ⟨fun s t hs h hnfrag => ?step, fun s t h => ?rstasm⟩
  case step =>
    rcases step_cases s with ⟨-, he⟩ | ⟨n, rest, -, he⟩ | ⟨n, v, rest, -, he⟩ | ⟨rest, -, he⟩
    · obtain rfl := Host.Outcome.next.inj (he.symm.trans h)
      exact hs
    · obtain rfl := Host.Outcome.next.inj (he.symm.trans h)
      exact hs
    · exact regWrite_partitioned (s := { s with pending := rest }) hs (he.symm.trans h) hnfrag
    · obtain rfl := Host.Outcome.next.inj (he.symm.trans h)
      exact resetStateIsLegal.2
  case rstasm =>
    obtain rfl := Host.Outcome.next.inj ((exec_rstasm s).symm.trans h)
    exact s.rstasm_partitioned

end Sys2Proof.Machine

/-! PROOFS of the family other: the laws of the two checksums (R122, R125), C16UPD byte after byte (R127), and the laws
of a frame (R142) and of PACK (R249). -/

namespace Sys2Proof.Machine

/-! ### The CRC-8 is an exclusive or -/

/-- R123: a pass of the CRC-8 moves every bit up by one place and bit 7 to bit 0: its polynomial is 0x01. -/
theorem crc8Shift_getLsbD (c : BitVec 8) {j : Nat} (hj : j < 8) :
    (crc8Shift c).getLsbD j = c.getLsbD ((j + 7) % 8) := by
  rcases Nat.eq_zero_or_pos j with rfl | hpos
  · unfold crc8Shift
    split
    next h => simpa using h
    next h => simpa using h
  · have hone : (0x01#8).getLsbD j = false := by
      rw [BitVec.getLsbD_one]
      simp
      omega
    have hup : (c <<< 1).getLsbD j = c.getLsbD ((j + 7) % 8) := by
      rw [BitVec.getLsbD_shiftLeft, show (j + 7) % 8 = j - 1 by omega]
      simp [hj, Nat.not_lt.mpr hpos]
    unfold crc8Shift
    split
    · rw [BitVec.getLsbD_xor, hone, Bool.xor_false, hup]
    · exact hup

/-- R123: `n` passes move every bit up by `n` places, modulo 8. -/
theorem crc8Shift_iterate_getLsbD (n : Nat) (c : BitVec 8) {j : Nat} (hj : j < 8) :
    (crc8Shift^[n] c).getLsbD j = c.getLsbD ((j + 7 * n) % 8) := by
  induction n generalizing j with
  | zero => rw [Function.iterate_zero_apply, Nat.mul_zero, Nat.add_zero, Nat.mod_eq_of_lt hj]
  | succ n ih =>
    rw [Function.iterate_succ_apply', crc8Shift_getLsbD _ hj, ih (Nat.mod_lt _ (by decide))]
    congr 1
    omega

/-- R125: the eight passes bring every bit back to its place, so a step is an exclusive or. -/
theorem crc8Step_eq (c b : Byte) : crc8Step c b = c ^^^ b := by
  refine BitVec.eq_of_getLsbD_eq fun j hj => ?_
  rw [crc8Step, crc8Shift_iterate_getLsbD 8 _ hj, show (j + 7 * 8) % 8 = j by omega]

/-- R125: the CRC-8 of a sequence is the exclusive or of its bytes. -/
theorem crc8Custom_eq (bs : List Byte) : crc8Custom bs = bs.foldl (fun x b => x ^^^ b) 0#8 := by
  rw [crc8Custom, show crc8Step = fun x b => x ^^^ b from funext₂ crc8Step_eq]
  rfl

/-- R125: a sequence with its CRC-8 appended has CRC-8 0. -/
theorem crc8Custom_append_self (bs : List Byte) : crc8Custom (bs ++ [crc8Custom bs]) = 0#8 := by
  calc crc8Custom (bs ++ [crc8Custom bs])
    _ = crc8Step (crc8Custom bs) (crc8Custom bs) := List.foldl_append
    _ = 0#8 := by rw [crc8Step_eq, BitVec.xor_self]

/-- Settles O21: eight passes are a whole turn of the byte. -/
theorem crc8IsXorOfBytes : Obligations.Crc8IsXorOfBytes := by
  unfold Obligations.Crc8IsXorOfBytes
  exact ⟨crc8Step_eq, fun bs => ⟨crc8Custom_eq bs, crc8Custom_append_self bs⟩⟩

/-! ### The CRC-16 and its residue -/

/-- R120: while bit 0 is 0, a pass only shifts, so `n` passes over `n` low bits that are 0 shift by `n`. -/
theorem crc16Shift_iterate_of_low_zero (n : Nat) {c : BitVec 16} (h : ∀ j, j < n → c.getLsbD j = false) :
    crc16Shift^[n] c = c >>> n := by
  induction n generalizing c with
  | zero => simp
  | succ n ih =>
    have hpass : crc16Shift c = c >>> 1 := if_neg (Bool.eq_false_iff.mp (h 0 (Nat.succ_pos n)))
    rw [Function.iterate_succ_apply, hpass, ih ?low, ← BitVec.shiftRight_add, Nat.add_comm]
    intro j hj
    rw [BitVec.getLsbD_ushiftRight]
    exact h (1 + j) (by omega)

/-- R122: folding in the low byte of the CRC-16 leaves its high byte. -/
theorem crc16Step_low (c : BitVec 16) : crc16Step c (c.setWidth 8) = c >>> 8 := by
  rw [crc16Step, crc16Shift_iterate_of_low_zero 8 ?low]
  case low =>
    intro j hj
    simp only [BitVec.getLsbD_xor, BitVec.getLsbD_setWidth, hj, show j < 16 by omega, decide_true, Bool.true_and,
      Bool.xor_self]
  refine BitVec.eq_of_getLsbD_eq fun j hj => ?_
  simp only [BitVec.getLsbD_ushiftRight, BitVec.getLsbD_xor, BitVec.getLsbD_setWidth,
    show ¬8 + j < 8 by omega, decide_false, Bool.false_and, Bool.and_false, Bool.xor_false]

/-- R122: folding in that high byte leaves 0. -/
theorem crc16Step_high (c : BitVec 16) : crc16Step (c >>> 8) ((c >>> 8).setWidth 8) = 0#16 := by
  have hself : c >>> 8 ^^^ ((c >>> 8).setWidth 8).setWidth 16 = 0#16 := by
    refine BitVec.eq_of_getLsbD_eq fun j hj => ?_
    simp only [BitVec.getLsbD_ushiftRight, BitVec.getLsbD_xor, BitVec.getLsbD_setWidth, hj, decide_true,
      Bool.true_and, BitVec.getLsbD_zero]
    by_cases h8 : j < 8
    · simp [h8]
    · simp [h8, BitVec.getLsbD_of_ge c (8 + j) (by omega)]
  rw [crc16Step, hself, crc16Shift_iterate_of_low_zero 8 (by simp), BitVec.zero_ushiftRight]

/-- Settles O22: the low byte leaves the high byte in the register, and the high byte leaves 0. -/
theorem crc16ResidueLowByteFirst : Obligations.Crc16ResidueLowByteFirst := by
  unfold Obligations.Crc16ResidueLowByteFirst
  intro bs
  calc crc16Modbus (bs ++ [(crc16Modbus bs).setWidth 8, (crc16Modbus bs >>> 8).setWidth 8])
    _ = crc16Step (crc16Step (crc16Modbus bs) ((crc16Modbus bs).setWidth 8))
          ((crc16Modbus bs >>> 8).setWidth 8) := List.foldl_append
    _ = 0#16 := by rw [crc16Step_low, crc16Step_high]

/-- Settles O23: the two checksums of the nine digits, evaluated. -/
theorem checksumCheckValues : Obligations.ChecksumCheckValues := by
  unfold Obligations.ChecksumCheckValues
  decide +kernel

/-! ### The streaming commands, one access after another -/

/-- A run goes on from the state that its first step leaves. -/
theorem run_succ {s t : State} (h : step s = .next t) (k : Nat) :
    Sys2Proof.core.run (k + 1) s = Sys2Proof.core.run k t := by
  have hcore : Sys2Proof.core.step s = .next t := h
  simp only [Host.Core.run, hcore]

/-- R28, R92: a step whose event is the line of a well-formed command runs the command. -/
theorem step_of_asmCommand {s : State} {i : Instr} {rest : List HostEvent} (hi : i.wellFormed = true)
    (h : s.pending = asmCommand i :: rest) : step s = exec i { s with pending := rest } :=
  step_of_command h (decode_encode hi)

/-- R127: one C16UPD per byte folds the bytes into C16. -/
theorem run_c16upd (bs : List Byte) {s : State} (h : s.pending = bs.map fun b => asmCommand (.c16upd b)) :
    Sys2Proof.core.run bs.length s = .next { s with pending := [], c16 := bs.foldl crc16Step s.c16 } := by
  induction bs generalizing s with
  | nil =>
    have hidle : s.pending = [] := h
    rw [← hidle]
    rfl
  | cons b bs ih =>
    rw [List.length_cons, run_succ ((step_of_asmCommand rfl h).trans (exec_c16upd b _))]
    exact ih rfl

/-- Settles O24: C16CLR leaves the seed, and the bytes are folded into it. -/
theorem streamingEqualsFunction : Obligations.StreamingEqualsFunction := by
  unfold Obligations.StreamingEqualsFunction
  intro bs s h
  rw [run_succ ((step_of_asmCommand rfl h).trans (exec_c16clr _))]
  exact run_c16upd bs rfl

/-! ### The laws of a frame -/

/-- R141: a frame is its bytes before the CRC-8 and the CRC-8 of them. -/
theorem frameBytes_eq (t : Byte) (inv dtu : BitVec 32) (f : Byte) (p : List Byte) (c : BitVec 1) :
    frameBytes t inv dtu f p c = (frameBody t inv dtu f p ++ payloadSeal p c) ++
      [crc8Custom (frameBody t inv dtu f p ++ payloadSeal p c)] := rfl

/-- R142: a sequence with one byte appended ends in that byte, after the sequence. -/
theorem last_of_append (b : List Byte) (x : Byte) :
    (b ++ [x]).getD ((b ++ [x]).length - 1) 0#8 = x ∧ (b ++ [x]).take ((b ++ [x]).length - 1) = b := by
  simp [List.getD_eq_getElem?_getD]

/-- R142: the bytes of a sealed frame by their places: ten before the payload, then the payload, the CRC-16, and one
more. -/
theorem seal_of_append {h p : List Byte} (hh : h.length = 10) (a b x : Byte) :
    let F := h ++ p ++ [a, b] ++ [x]
    F.getD (F.length - 3) 0#8 = a ∧ F.getD (F.length - 2) 0#8 = b ∧ (F.drop 10).take (F.length - 13) = p := by
  intro F
  have hF : F = h ++ (p ++ [a, b, x]) := by simp [F]
  have hlen : F.length = 10 + (p.length + 3) := by simp [hF, hh]
  refine ⟨?high, ?low, ?payload⟩
  case high =>
    rw [hlen, hF, List.getD_append_right _ _ _ _ (by omega), List.getD_append_right _ _ _ _ (by omega),
      show 10 + (p.length + 3) - 3 - h.length - p.length = 0 by omega]
    rfl
  case low =>
    rw [hlen, hF, List.getD_append_right _ _ _ _ (by omega), List.getD_append_right _ _ _ _ (by omega),
      show 10 + (p.length + 3) - 2 - h.length - p.length = 1 by omega]
    rfl
  case payload =>
    rw [hlen, hF, show 10 + (p.length + 3) - 13 = p.length by omega, List.drop_left' hh, List.take_left]

/-- A 16-bit value from its two bytes. -/
theorem toNat_of_bytes (k : BitVec 16) : 256 * ((k >>> 8).setWidth 8).toNat + (k.setWidth 8).toNat = k.toNat := by
  have := k.isLt
  simp only [BitVec.toNat_setWidth, BitVec.toNat_ushiftRight, Nat.shiftRight_eq_div_pow]
  omega

/-- Settles O26: the last byte is the CRC-8, whose law gives the exclusive or; the CRC-16 stands before it. -/
theorem frameLaws : Obligations.FrameLaws := by
  unfold Obligations.FrameLaws
  intro t inv dtu f p c F
  have hF : F = _ := frameBytes_eq t inv dtu f p c
  refine ⟨frameBytes_length t inv dtu f p c, ?last, ?xor, ?crc16⟩
  case last =>
    obtain ⟨hlast, hbefore⟩ := last_of_append (frameBody t inv dtu f p ++ payloadSeal p c) (crc8Custom _)
    rw [hF, hlast, hbefore]
  case xor => rw [← crc8Custom_eq, hF, crc8Custom_append_self]
  case crc16 =>
    rintro rfl
    have hsealed := hF
    rw [payloadSeal, if_pos rfl, bytes16_eq, frameBody_eq] at hsealed
    obtain ⟨hhigh, hlow, hpayload⟩ := seal_of_append (h := [t, (inv >>> 24).setWidth 8, (inv >>> 16).setWidth 8,
      (inv >>> 8).setWidth 8, inv.setWidth 8, (dtu >>> 24).setWidth 8, (dtu >>> 16).setWidth 8,
      (dtu >>> 8).setWidth 8, dtu.setWidth 8, f]) (p := p) rfl _ _ _
    rw [hsealed, hhigh, hlow, hpayload]
    exact toNat_of_bytes _

/-! ### PACK again -/

/-- A run of bytes stored twice is the run stored once. -/
theorem Memory.writeBytes_writeBytes_self {m : Memory} (hw : m.wf = true) (a : Nat) (bs : List Byte) :
    (m.writeBytes a bs).writeBytes a bs = m.writeBytes a bs := by
  have hw' := Memory.wf_writeBytes hw a bs
  refine Memory.eq_of_read_eq (Memory.wf_writeBytes hw' a bs) hw' fun c => ?_
  rw [Memory.read_writeBytes hw']
  split
  next hc => exact (Memory.read_writeBytes_inside hw hc.1 hc.2).symm
  next => rfl

/-- R143: a frame in TXF leaves the payload in TXP. -/
theorem readBytes_txp_writeBytes_txf (m : Memory) {n : Nat} (hn : n ≤ 21) (bs : List Byte) :
    (m.writeBytes Config.txfBase bs).readBytes Config.txpBase n = m.readBytes Config.txpBase n := by
  refine Memory.readBytes_congr fun k hk => Memory.read_writeBytes_outside m bs (.inl ?_)
  simp only [Config.txpBase, Config.txfBase]
  omega

/-- Settles O31: a refused frame is refused again, and a built one is built again over the same payload. -/
theorem packIsRepeatable : Obligations.PackIsRepeatable := by
  unfold Obligations.PackIsRepeatable
  intro s t hs h
  obtain ⟨⟨-, -, hn, -, -⟩, hw, -⟩ := hs
  rcases execPack_cases s with ⟨hlong, he⟩ | ⟨hfits, he⟩
  · obtain rfl := Host.Outcome.next.inj (he.symm.trans h)
    have htwice : setBit (setBit s.err 2) 2 = setBit s.err 2 := by
      rw [setBit, setBit, BitVec.or_assoc, BitVec.or_self]
    refine (congrArg Host.Outcome.next (State.pack_of_lt _ hlong)).trans ?_
    simp only [htwice]
  · obtain rfl := Host.Outcome.next.inj (he.symm.trans h)
    refine (congrArg Host.Outcome.next (State.pack_of_le _ hfits)).trans ?_
    simp only [readBytes_txp_writeBytes_txf _ hn, Memory.writeBytes_writeBytes_self hw]

end Sys2Proof.Machine

/-! PROOFS of the family other: the serials of a family (R160, R161). -/

namespace Sys2Proof.Machine

/-- A quotient is `d` just between `d` times the divisor and the next multiple. -/
theorem div_pow_eq_iff (n d k : Nat) : n / 10 ^ k = d ↔ d * 10 ^ k ≤ n ∧ n < (d + 1) * 10 ^ k := by
  have hpos : 0 < 10 ^ k := Nat.pow_pos (by decide)
  rw [← Nat.le_div_iff_mul_le hpos, ← Nat.div_lt_iff_lt_mul hpos]
  omega

/-- R160: if the quotient by one power of ten still has four digits, that by another, which has no more than four, is
not by a smaller power. -/
theorem not_lt_of_four_digits {n j k : Nat} (hj : 1000 ≤ n / 10 ^ j) (hk : n / 10 ^ k ≤ 9999) : ¬k < j := by
  intro hlt
  have hsplit : n / 10 ^ j = n / 10 ^ k / 10 ^ (j - k) := by
    rw [Nat.div_div_eq_div_mul, ← Nat.pow_add, Nat.add_sub_cancel' hlt.le]
  have hten : 10 ^ 1 ≤ 10 ^ (j - k) := Nat.pow_le_pow_right (by decide) (by omega)
  have hle : n / 10 ^ k / 10 ^ (j - k) ≤ n / 10 ^ k / 10 ^ 1 := Nat.div_le_div_left hten (by decide)
  omega

/-- R160: the leading four digits of a 64-bit number are those of its quotient by a power of ten. -/
theorem prefix4_eq_iff {n d : Nat} (hn : n < 2 ^ 64) (hlow : 1000 ≤ d) (hhigh : d ≤ 9999) :
    prefix4 n = d ↔ ∃ k, k ≤ 16 ∧ d * 10 ^ k ≤ n ∧ n < (d + 1) * 10 ^ k := by
  simp only [← div_pow_eq_iff]
  obtain ⟨hsmall, hlarge⟩ := prefix4IsLeadingDigits n hn
  rcases Nat.lt_or_ge n 10000 with hn4 | hn5
  · rw [hsmall hn4]
    refine ⟨fun h => ⟨0, by decide, by rw [Nat.pow_zero, Nat.div_one, h]⟩, ?_⟩
    rintro ⟨k, -, hk⟩
    rcases Nat.eq_zero_or_pos k with rfl | hpos
    · rwa [Nat.pow_zero, Nat.div_one] at hk
    · have hn : n / 10 ^ 0 ≤ 9999 := by rw [Nat.pow_zero, Nat.div_one]; omega
      exact absurd hpos (not_lt_of_four_digits (n := n) (by omega) hn)
  · obtain ⟨hge, hle, j, -, hj, hdigits⟩ := hlarge hn5
    refine ⟨fun h => ⟨j, hj, hdigits.symm.trans h⟩, ?_⟩
    rintro ⟨k, -, hk⟩
    rw [hdigits] at hge hle ⊢
    rcases Nat.lt_trichotomy j k with hlt | rfl | hgt
    · exact absurd hlt (not_lt_of_four_digits (n := n) (by omega) hle)
    · exact hk
    · exact absurd hgt (not_lt_of_four_digits hge (by omega))

/-- Settles O33: the leading digits of each family are four. -/
theorem familyBySerialRange : Obligations.FamilyBySerialRange := by
  unfold Obligations.FamilyBySerialRange
  intro n hn
  refine ⟨familyOf_eq_some.trans ?family1, familyOf_eq_some.trans ?family2, familyOf_eq_some.trans ?family3⟩
  case family1 => exact prefix4_eq_iff hn (by decide) (by decide)
  case family2 => exact prefix4_eq_iff hn (by decide) (by decide)
  case family3 => exact prefix4_eq_iff hn (by decide) (by decide)

end Sys2Proof.Machine

/-! PROOFS of the family other: the bytes that ASSEMBLE draws (R12, R188), and ASSEMBLE again with nothing awaited. -/

namespace Sys2Proof.Machine

/-! ### The draws -/

/-- R188: a byte is missing when its position is not collected. -/
theorem missingByte_iff (coll : BitVec 4) (k : Nat) : missingByte coll k = true ↔ coll.getLsbD (k / 16) = false := by
  rw [missingByte, Bool.not_eq_true', Config.fragPayload]

/-- R188: each missing byte takes one draw. -/
theorem missingBelow_succ (coll : BitVec 4) (k : Nat) :
    missingBelow coll (k + 1) = missingBelow coll k + if missingByte coll k then 1 else 0 := by
  rw [missingBelow, missingBelow, List.range_succ, List.filter_append, List.length_append]
  cases h : missingByte coll k <;> simp [h]

theorem missingBelow_monotone (coll : BitVec 4) : Monotone (missingBelow coll) :=
  monotone_nat_of_le_succ fun k => by rw [missingBelow_succ]; exact Nat.le_add_right _ _

/-- R12: the draws of a missing byte come before those of the bytes above it. -/
theorem missingBelow_lt {coll : BitVec 4} {j k : Nat} (hj : missingByte coll j = true) (hjk : j < k) :
    missingBelow coll j < missingBelow coll k := by
  have hnext : missingBelow coll (j + 1) = missingBelow coll j + 1 := by rw [missingBelow_succ, if_pos hj]
  have hle := missingBelow_monotone coll (show j + 1 ≤ k from hjk)
  omega

/-- R188: without missing bytes nothing is drawn. -/
theorem missingBelow_eq_zero {coll : BitVec 4} {n : Nat} (h : ∀ k, k < n → missingByte coll k = false) :
    missingBelow coll n = 0 := by
  rw [missingBelow, List.length_eq_zero_iff, List.filter_eq_nil_iff]
  exact fun k hk => Bool.eq_false_iff.mp (h k (List.mem_range.mp hk))

/-- R188: byte `k` of the run that ASSEMBLE stores. -/
theorem State.read_assembled {s : State} (hw : s.buf.wf = true) {k : Nat} (hk : k < s.asmLength) :
    (s.buf.writeBytes Config.asmBase ((List.range s.asmLength).map s.assembledByte)).read (0x0C0 + k) =
      s.assembledByte k := by
  calc (s.buf.writeBytes Config.asmBase ((List.range s.asmLength).map s.assembledByte)).read (0x0C0 + k)
    _ = ((List.range s.asmLength).map s.assembledByte).getD k 0#8 :=
      Memory.read_writeBytes_add hw Config.asmBase (by simpa using hk)
    _ = s.assembledByte k := by simp [List.getD_eq_getElem?_getD, hk]

/-- Settles O41: byte `k` takes the draw numbered by the missing bytes below it. -/
theorem unspecifiedBytesAreFreshDraws : Obligations.UnspecifiedBytesAreFreshDraws := by
  unfold Obligations.UnspecifiedBytesAreFreshDraws
  intro s t hw h
  obtain rfl := Host.Outcome.next.inj ((execAssemble_eq s).symm.trans h)
  refine ⟨fun k => s.draws + missingBelow s.coll k, fun k hk hmissing => ?_⟩
  have hk' : k < s.asmLength := Nat.lt_of_lt_of_le hk (Nat.mod_le _ _)
  have hmiss := (missingByte_iff s.coll k).mpr hmissing
  refine ⟨?drawn, Nat.le_add_right _ _, Nat.add_lt_add_left (missingBelow_lt hmiss hk') _,
    fun j hj hmissing' => ?rising⟩
  case drawn => exact (State.read_assembled hw hk').trans (if_pos hmiss)
  case rising =>
    exact Nat.add_lt_add_left (missingBelow_lt ((missingByte_iff s.coll j).mpr hmissing') hj) _

/-! ### ASSEMBLE again -/

/-- R53, R186: with nothing awaited no byte of the assembled length is missing. -/
theorem State.no_missingByte {s : State} (hs : s.Partitioned) (hnfrag : s.nfrag.toNat ≤ 4) (ho : s.outst = 0#4)
    {k : Nat} (hk : k < s.asmLength) : missingByte s.coll k = false := by
  have hk16 : k < 16 * s.nfrag.toNat := Nat.lt_of_lt_of_le hk (Nat.min_le_left _ _)
  have hi := hs ⟨k / 16, by omega⟩
  rw [State.PositionPartitioned, if_pos (by simp only; omega), ho, BitVec.getLsbD_zero] at hi
  exact hi.symm

/-- R186: a legal state assembles 64 bytes at most. -/
theorem State.asmLength_le {s : State} (hs : s.LengthsLegal) : s.asmLength ≤ 64 := by
  obtain ⟨-, -, -, -, htotLen⟩ := hs
  exact (Nat.min_le_right _ _).trans htotLen

/-- Settles O42: with nothing awaited every byte comes from a slot, which the first ASSEMBLE left alone. -/
theorem assembleIsIdempotent : Obligations.AssembleIsIdempotent := by
  unfold Obligations.AssembleIsIdempotent
  intro s t ⟨hlen, hw, _⟩ hpart ho h
  have hbound := State.asmLength_le hlen
  obtain ⟨-, -, -, hnfrag, -⟩ := hlen
  have hno : ∀ k, k < s.asmLength → missingByte s.coll k = false := fun k hk => State.no_missingByte hpart hnfrag ho hk
  have hdraws : missingBelow s.coll s.asmLength = 0 := missingBelow_eq_zero hno
  have ht := Host.Outcome.next.inj ((execAssemble_eq s).symm.trans h)
  rw [if_pos ho, hdraws, Nat.add_zero] at ht
  have hlength : t.asmLength = s.asmLength := by rw [← ht]; rfl
  have hbytes : (List.range s.asmLength).map t.assembledByte = (List.range s.asmLength).map s.assembledByte := by
    refine List.map_congr_left fun k hk => ?_
    have hmiss := hno k (List.mem_range.mp hk)
    have hcoll : t.coll = s.coll := by rw [← ht]
    rw [State.assembledByte, State.assembledByte, hcoll, hmiss, ← ht]
    refine Memory.read_writeBytes_outside _ _ (.inr ?_)
    rw [List.length_map, List.length_range]
    simp only [Config.asmBase, Config.slotBase]
    omega
  rw [execAssemble_eq, hlength, hbytes, ← ht]
  simp only [ho, if_true, hdraws, Nat.add_zero, Memory.writeBytes_writeBytes_self hw]

end Sys2Proof.Machine

/-! PROOFS of the family other: a whole attempt (R181, R184, R185): raw frames loaded and absorbed one after another. -/

namespace Sys2Proof.Machine

/-! ### One raw frame -/

/-- R181: a raw frame whose CRC-8 over its first 26 bytes is the byte after them. -/
abbrev GoodFrame (r : List Byte) : Prop := crc8Custom (r.take 26) = r.getD 26 0#8

/-- R101: the id of a raw frame. -/
abbrev rawId (r : List Byte) : Byte := r.getD 9 0#8

/-- R184: a good raw frame that schema position `i` expects. -/
abbrev State.Hit (s : State) (i : Fin 4) (r : List Byte) : Prop :=
  GoodFrame r ∧ i.val < s.nfrag.toNat ∧ s.fragId i = rawId r

/-- R184: position `i` is collected, not awaited, and has the payload of `r` in its slot. -/
def State.Holds (t : State) (i : Fin 4) (r : List Byte) : Prop :=
  t.coll.getLsbD i.val = true ∧ t.outst.getLsbD i.val = false ∧
    ∀ j, j < 16 → t.buf.read (0x100 + 16 * i.val + j) = r.getD (10 + j) 0#8

/-- Position `i` has the same bits of OUTST and COLL and the same slot. -/
def State.SamePosition (s t : State) (i : Fin 4) : Prop :=
  t.coll.getLsbD i.val = s.coll.getLsbD i.val ∧ t.outst.getLsbD i.val = s.outst.getLsbD i.val ∧
    ∀ j, j < 16 → t.buf.read (0x100 + 16 * i.val + j) = s.buf.read (0x100 + 16 * i.val + j)

theorem State.SamePosition.trans {s t u : State} {i : Fin 4} (h : s.SamePosition t i) (h' : t.SamePosition u i) :
    s.SamePosition u i := by
  obtain ⟨hc, ho, hb⟩ := h
  obtain ⟨hc', ho', hb'⟩ := h'
  exact ⟨hc'.trans hc, ho'.trans ho, fun j hj => (hb' j hj).trans (hb j hj)⟩

theorem State.Holds.of_same {s t : State} {i : Fin 4} {r : List Byte} (h : s.Holds i r) (h' : s.SamePosition t i) :
    t.Holds i r := by
  obtain ⟨hc, ho, hb⟩ := h
  obtain ⟨hc', ho', hb'⟩ := h'
  exact ⟨hc'.trans hc, ho'.trans ho, fun j hj => (hb' j hj).trans (hb j hj)⟩

/-- R48: a loaded raw frame is the one that ABSORB reads. -/
theorem State.rawFrame_loadFrame {s : State} (hw : s.buf.wf = true) {r : List Byte} (hr : r.length = 32) :
    (s.loadFrame r).rawFrame = r := by
  have hread := Memory.readBytes_writeBytes hw Config.rxfBase r
  rwa [hr] at hread

/-- R101, R181: what `fragmentOk` compares. -/
theorem fragmentOk_unpack_iff (r : List Byte) : fragmentOk (unpack r) = true ↔ GoodFrame r :=
  beq_iff_eq

/-- R101: byte `j` of the payload. -/
theorem unpack_payload_getD (r : List Byte) {j : Nat} (hj : j < 16) :
    (unpack r).payload.getD j 0#8 = r.getD (10 + j) 0#8 := by
  simp [unpack, slice, Config.fragPayOff, Config.fragPayload, List.getD_eq_getElem?_getD, hj]

/-- R101: a raw frame carries 16 bytes of payload. -/
theorem unpack_payload_length {r : List Byte} (hr : r.length = 32) : (unpack r).payload.length = 16 := by
  simp [unpack, slice, Config.fragPayOff, Config.fragPayload, hr]

/-- R48: loading a frame leaves the slots. -/
theorem State.loadFrame_read_outside (s : State) {r : List Byte} (hr : r.length = 32) {a : Nat}
    (ha : a < 0x080 ∨ 0x0A0 ≤ a) : (s.loadFrame r).buf.read a = s.buf.read a :=
  Memory.read_writeBytes_outside _ _ (by rwa [hr])

/-- R48: loading a frame leaves every schema position. -/
theorem State.loadFrame_samePosition (s : State) {r : List Byte} (hr : r.length = 32) (i : Fin 4) :
    s.SamePosition (s.loadFrame r) i :=
  ⟨rfl, rfl, fun _ _ => s.loadFrame_read_outside hr (.inr (by omega))⟩

/-! ### What a sequence of raw frames leaves -/

/-- The frames of `fs` that position `i` takes, in their order. -/
def State.hits (s : State) (fs : List (List Byte)) (i : Fin 4) : List (List Byte) :=
  fs.filter fun r => GoodFrame r ∧ i.val < s.nfrag.toNat ∧ s.fragId i = rawId r

/-- R184: the registers that ABSORB may write (and RXF), the others as they were. -/
def State.OnlyAbsorbed (s t : State) : Prop :=
  t = { s with coll := t.coll, outst := t.outst, buf := t.buf, result := t.result, status := t.status }

/-- R184, R185: what loading and absorbing the frames `fs` one after another makes of `s`. -/
structure Absorbed (s : State) (fs : List (List Byte)) (t : State) : Prop where
  wf : t.buf.wf = true
  last : ∀ i r, (s.hits fs i).getLast? = some r → t.Holds i r
  none : ∀ i, s.hits fs i = [] → s.SamePosition t i
  outside : ∀ a, (a < 0x080 ∨ 0x0A0 ≤ a) → (a < 0x100 ∨ 0x140 ≤ a) → t.buf.read a = s.buf.read a
  status : t.status = if ∀ r ∈ fs, GoodFrame r then s.status else s.status ||| 0x02#5
  frame : s.OnlyAbsorbed t

theorem State.OnlyAbsorbed.trans {s t u : State} (h : s.OnlyAbsorbed t) (h' : t.OnlyAbsorbed u) :
    s.OnlyAbsorbed u := by
  unfold State.OnlyAbsorbed at h h'
  rw [h] at h'
  exact h'

/-- R42: ABSORB leaves the schema, so the positions go on taking the same frames. -/
theorem State.OnlyAbsorbed.hits_eq {s t : State} (h : s.OnlyAbsorbed t) (fs : List (List Byte)) (i : Fin 4) :
    t.hits fs i = s.hits fs i := by
  rw [h]
  rfl

/-- Sequences one after another. -/
theorem Absorbed.append {s t u : State} {fs gs : List (List Byte)} (h : Absorbed s fs t) (h' : Absorbed t gs u) :
    Absorbed s (fs ++ gs) u where
  wf := h'.wf
  last i r hr := by
    rw [State.hits, List.filter_append, List.getLast?_append] at hr
    cases hgs : (s.hits gs i).getLast? with
    | none =>
      have hempty : s.hits gs i = [] := List.getLast?_eq_none_iff.mp hgs
      rw [State.hits] at hgs
      rw [hgs, Option.none_or] at hr
      exact (h.last i r hr).of_same (h'.none i (by rwa [h.frame.hits_eq]))
    | some r' =>
      refine h'.last i r ?_
      rw [h.frame.hits_eq, hgs]
      rw [State.hits] at hgs
      rwa [hgs, Option.some_or] at hr
  none i hi := by
    obtain ⟨hfs, hgs⟩ : s.hits fs i = [] ∧ s.hits gs i = [] := by
      rwa [State.hits, List.filter_append, List.append_eq_nil_iff] at hi
    exact (h.none i hfs).trans (h'.none i (by rwa [h.frame.hits_eq]))
  outside a hrxf hslot := (h'.outside a hrxf hslot).trans (h.outside a hrxf hslot)
  status := by
    rw [h'.status, h.status]
    simp only [List.forall_mem_append]
    by_cases hfs : ∀ r ∈ fs, GoodFrame r <;> by_cases hgs : ∀ r ∈ gs, GoodFrame r
    · rw [if_pos hfs, if_pos hgs, if_pos ⟨hfs, hgs⟩]
    · rw [if_pos hfs, if_neg hgs, if_neg fun x => hgs x.2]
    · rw [if_neg hfs, if_pos hgs, if_neg fun x => hfs x.1]
    · rw [if_neg hfs, if_neg hgs, if_neg fun x => hfs x.1, BitVec.or_assoc, BitVec.or_self]
  frame := h.frame.trans h'.frame

/-- No frame changes nothing. -/
theorem Absorbed.nil {s : State} (hw : s.buf.wf = true) : Absorbed s [] s where
  wf := hw
  last _ _ h := by simp [State.hits] at h
  none _ _ := ⟨rfl, rfl, fun _ _ => rfl⟩
  outside _ _ _ := rfl
  status := by simp
  frame := rfl

/-- The value of RESULT is left open. -/
theorem Absorbed.with_result {s t : State} {fs : List (List Byte)} (h : Absorbed s fs t) (x : BitVec 32) :
    Absorbed s fs { t with result := x } where
  wf := h.wf
  last := h.last
  none := h.none
  outside := h.outside
  status := h.status
  frame := by
    have hframe := h.frame
    rw [State.OnlyAbsorbed] at hframe ⊢
    exact congrArg (fun u : State => { u with result := x }) hframe

/-- R184: a bad frame is flagged and dropped. -/
theorem absorbed_of_bad {s : State} (hw : s.buf.wf = true) {r : List Byte} (hr : r.length = 32)
    (hbad : ¬GoodFrame r) :
    Absorbed s [r] { s.loadFrame r with status := setBit s.status 1, result := 0#32 } where
  wf := Memory.wf_writeBytes hw _ _
  last i r' h := by simp [State.hits, hbad] at h
  none i _ := s.loadFrame_samePosition hr i
  outside a hrxf _ := s.loadFrame_read_outside hr hrxf
  status := by
    rw [if_neg fun h => hbad (h r (by simp))]
    rfl
  frame := rfl

/-- R184: position `i` takes a good frame just when ABSORB's loop stores it there. -/
theorem State.hits_singleton_of_good (s : State) {r : List Byte} (hgood : GoodFrame r) (i : Fin 4) :
    s.hits [r] i = if (s.loadFrame r).expects (unpack r) i then [r] else [] := by
  by_cases hx : i.val < s.nfrag.toNat ∧ s.fragId i = rawId r
  · rw [if_pos (show (s.loadFrame r).expects (unpack r) i from hx)]
    exact List.filter_cons_of_pos (decide_eq_true ⟨hgood, hx⟩)
  · rw [if_neg (show ¬(s.loadFrame r).expects (unpack r) i from hx)]
    exact List.filter_cons_of_neg (by simpa using fun _ => hx)

/-- R184: a good frame goes to the positions that expect its id. -/
theorem absorbed_of_good {s : State} (hw : s.buf.wf = true) {r : List Byte} (hr : r.length = 32)
    (hgood : GoodFrame r) :
    Absorbed s [r] ((s.loadFrame r).absorbGood (unpack r)) where
  wf := State.absorbGood_wf (Memory.wf_writeBytes hw _ _)
  last i r' h := by
    rw [s.hits_singleton_of_good hgood] at h
    split at h
    case isFalse => simp at h
    rename_i hx
    obtain rfl : r = r' := by simpa using h
    obtain ⟨hc, ho, hb⟩ := State.absorbGood_of_expects (Memory.wf_writeBytes hw _ _) (unpack_payload_length hr) hx
    exact ⟨hc, ho, fun j hj => (hb j hj).trans (unpack_payload_getD r hj)⟩
  none i h := by
    have hx : ¬(s.loadFrame r).expects (unpack r) i := by
      intro hx
      rw [s.hits_singleton_of_good hgood, if_pos hx] at h
      simp at h
    exact (s.loadFrame_samePosition hr i).trans
      (State.absorbGood_of_not_expects (Memory.wf_writeBytes hw _ _) (unpack_payload_length hr) hx)
  outside a hrxf hslot :=
    (State.absorbGood_outside _ (unpack_payload_length hr) hslot).trans (s.loadFrame_read_outside hr hrxf)
  status := by
    rw [if_pos (by simpa using hgood), State.absorbGood_frame]
    rfl
  frame := by
    rw [State.OnlyAbsorbed, State.absorbGood_frame]
    rfl

/-- R48, R184: one raw frame loaded and absorbed. -/
theorem exec_absorb_loadFrame {s : State} (hw : s.buf.wf = true) {r : List Byte} (hr : r.length = 32) :
    ∃ t, exec .absorb (s.loadFrame r) = .next t ∧ Absorbed s [r] t ∧
      (GoodFrame r → t.result = satisfiedResult t.outst) := by
  have hraw := State.rawFrame_loadFrame hw hr
  by_cases hgood : GoodFrame r
  · have hok : fragmentOk (unpack (s.loadFrame r).rawFrame) = true := by rwa [hraw, fragmentOk_unpack_iff]
    have hrun := execAbsorb_of_good hok
    have habs := absorbed_of_good hw hr hgood
    rw [hraw] at hrun
    generalize (s.loadFrame r).absorbGood (unpack r) = u at hrun habs
    exact ⟨_, hrun, habs.with_result _, fun _ => rfl⟩
  · have hbad : ¬fragmentOk (unpack (s.loadFrame r).rawFrame) = true := by rwa [hraw, fragmentOk_unpack_iff]
    exact ⟨_, execAbsorb_of_bad hbad, absorbed_of_bad hw hr hgood, fun h => absurd h hgood⟩

/-- R185: a sequence of raw frames loaded and absorbed; a good one at the end tells whether the schema is satisfied. -/
theorem absorbFrames_absorbed {s : State} {fs : List (List Byte)} (hw : s.buf.wf = true)
    (hlen : ∀ r ∈ fs, r.length = 32) :
    ∃ t, absorbFrames fs s = .next t ∧ Absorbed s fs t ∧
      (fs ≠ [] → (∀ r ∈ fs, GoodFrame r) → t.result = satisfiedResult t.outst) := by
  induction fs generalizing s with
  | nil => exact ⟨s, rfl, .nil hw, fun h => absurd rfl h⟩
  | cons r rs ih =>
    obtain ⟨hr, hrs⟩ := List.forall_mem_cons.mp hlen
    obtain ⟨u, hu, hone, hresult⟩ := exec_absorb_loadFrame hw hr
    obtain ⟨t, ht, hrest, hresult'⟩ := ih hone.wf hrs
    refine ⟨t, ?run, hone.append hrest, fun _ hgood => ?result⟩
    case run => simp only [absorbFrames, hu, ht]
    case result =>
      obtain ⟨hfirst, hgoods⟩ := List.forall_mem_cons.mp hgood
      cases rs with
      | nil =>
        obtain rfl := Host.Outcome.next.inj ht
        exact hresult hfirst
      | cons r' rs => exact hresult' (by simp) hgoods

/-- Settles O52: the frames are absorbed one after another, and each position keeps the last one that it took. -/
theorem lastGoodFragmentWins : Obligations.LastGoodFragmentWins := by
  unfold Obligations.LastGoodFragmentWins
  intro s fs hw hlen
  obtain ⟨t, ht, habs, -⟩ := absorbFrames_absorbed hw hlen
  exact ⟨t, ht, fun i => ⟨habs.last i, habs.none i⟩, habs.outside, habs.status, habs.frame⟩

/-! ### Any order -/

/-- R184: after the frames a position is awaited if it was and took none of them. -/
theorem Absorbed.outst_eq {s t : State} {fs : List (List Byte)} (h : Absorbed s fs t) (i : Fin 4) :
    t.outst.getLsbD i.val = (s.outst.getLsbD i.val && decide (s.hits fs i = [])) := by
  by_cases hi : s.hits fs i = []
  · obtain ⟨-, ho, -⟩ := h.none i hi
    rw [ho, decide_eq_true hi, Bool.and_true]
  · obtain ⟨-, ho, -⟩ := h.last i _ (List.getLast?_eq_some_getLast hi)
    rw [ho, decide_eq_false hi, Bool.and_false]

/-- A frame that a position takes is one of the frames, good, and of the position's id. -/
theorem State.mem_hits {s : State} {fs : List (List Byte)} {i : Fin 4} {r : List Byte} :
    r ∈ s.hits fs i ↔ r ∈ fs ∧ s.Hit i r :=
  List.mem_filter.trans (and_congr_right fun _ => decide_eq_true_iff)

/-- Frames with pairwise different ids: a position takes one of them at most. -/
theorem State.hits_length_le {s : State} {fs : List (List Byte)} (hids : (fs.map rawId).Nodup) (i : Fin 4) :
    (s.hits fs i).length ≤ 1 := by
  have hnodup : ((s.hits fs i).map rawId).Nodup := hids.sublist (List.filter_sublist.map _)
  have hsame : (s.hits fs i).map rawId = List.replicate (s.hits fs i).length (s.fragId i) := by
    refine List.map_eq_replicate_iff.mpr fun r hr => ?_
    obtain ⟨-, -, -, hid⟩ := State.mem_hits.mp hr
    exact hid.symm
  rwa [hsame, List.nodup_replicate] at hnodup

/-- In another order a position takes the same frame, or again none. -/
theorem State.hits_perm {s : State} {fs gs : List (List Byte)} (hperm : fs.Perm gs) (hids : (fs.map rawId).Nodup)
    (i : Fin 4) : s.hits fs i = s.hits gs i := by
  have hp : (s.hits fs i).Perm (s.hits gs i) := hperm.filter _
  have hle := s.hits_length_le hids i
  match hfs : s.hits fs i with
  | [] =>
    rw [hfs] at hp
    exact hp.nil_eq
  | [r] =>
    rw [hfs] at hp
    exact hp.singleton_eq
  | _ :: _ :: _ =>
    rw [hfs] at hle
    simp at hle

/-- Positions that took the same frames from the same state have the same bits and the same slot. -/
theorem Absorbed.samePosition {s t u : State} {fs gs : List (List Byte)} (ht : Absorbed s fs t) (hu : Absorbed s gs u)
    {i : Fin 4} (h : s.hits fs i = s.hits gs i) : u.SamePosition t i := by
  cases hlast : (s.hits fs i).getLast? with
  | none =>
    have hfs : s.hits fs i = [] := List.getLast?_eq_none_iff.mp hlast
    obtain ⟨hc, ho, hb⟩ := ht.none i hfs
    obtain ⟨hc', ho', hb'⟩ := hu.none i (h ▸ hfs)
    exact ⟨hc.trans hc'.symm, ho.trans ho'.symm, fun j hj => (hb j hj).trans (hb' j hj).symm⟩
  | some r =>
    obtain ⟨hc, ho, hb⟩ := ht.last i r hlast
    obtain ⟨hc', ho', hb'⟩ := hu.last i r (h ▸ hlast)
    exact ⟨hc.trans hc'.symm, ho.trans ho'.symm, fun j hj => (hb j hj).trans (hb' j hj).symm⟩

/-- OUTST, COLL and the slots are what the four positions have. -/
theorem eq_of_samePosition {t u : State} (h : ∀ i, u.SamePosition t i) :
    t.outst = u.outst ∧ t.coll = u.coll ∧ ∀ a, 0x100 ≤ a → a < 0x140 → t.buf.read a = u.buf.read a := by
  refine ⟨BitVec.eq_of_getLsbD_eq fun i hi => ?outst, BitVec.eq_of_getLsbD_eq fun i hi => ?coll,
    fun a hlow hhigh => ?slots⟩
  case outst =>
    obtain ⟨-, ho, -⟩ := h ⟨i, hi⟩
    exact ho
  case coll =>
    obtain ⟨hc, -, -⟩ := h ⟨i, hi⟩
    exact hc
  case slots =>
    obtain ⟨-, -, hb⟩ := h ⟨(a - 0x100) / 16, by omega⟩
    have ha : 0x100 + 16 * ((a - 0x100) / 16) + (a - 0x100) % 16 = a := by omega
    have hread := hb ((a - 0x100) % 16) (Nat.mod_lt _ (by decide))
    rwa [ha] at hread

/-- R53, R180: from a partitioned state, good frames that cover the schema leave nothing awaited. -/
theorem Absorbed.outst_eq_zero {s t : State} {fs : List (List Byte)} (h : Absorbed s fs t) (hpart : s.Partitioned)
    (hgood : ∀ r ∈ fs, GoodFrame r) (hcover : ∀ i : Fin 4, i.val < s.nfrag.toNat → s.fragId i ∈ fs.map rawId) :
    t.outst = 0#4 := by
  refine BitVec.eq_of_getLsbD_eq fun j hj => ?_
  have hbit := h.outst_eq ⟨j, hj⟩
  rw [BitVec.getLsbD_zero]
  refine hbit.trans ?_
  by_cases hi : j < s.nfrag.toNat
  · obtain ⟨r, hr, hid⟩ := List.mem_map.mp (hcover ⟨j, hj⟩ hi)
    have hmem : r ∈ s.hits fs ⟨j, hj⟩ := State.mem_hits.mpr ⟨hr, hgood r hr, hi, hid.symm⟩
    rw [decide_eq_false (List.ne_nil_of_mem hmem), Bool.and_false]
  · have hnone := hpart ⟨j, hj⟩
    rw [State.PositionPartitioned, if_neg hi] at hnone
    obtain ⟨ho, -⟩ := hnone
    rw [ho, Bool.false_and]

/-- Settles O38: in either order each position takes the same frame, or none. -/
theorem absorbOrderDoesNotMatter : Obligations.AbsorbOrderDoesNotMatter := by
  unfold Obligations.AbsorbOrderDoesNotMatter
  intro s fs gs hw hperm hlen hids
  obtain ⟨t, ht, habs, -⟩ := absorbFrames_absorbed hw hlen
  obtain ⟨u, hu, habs', -⟩ := absorbFrames_absorbed hw fun r hr => hlen r (hperm.mem_iff.mpr hr)
  obtain ⟨ho, hc, hb⟩ := eq_of_samePosition fun i => habs.samePosition habs' (State.hits_perm hperm hids i)
  exact ⟨t, u, ht, hu, ho, hc, hb, habs.outst_eq_zero⟩

/-! ### The last of the schema's fragments -/

/-- R182, R185: after RSTASM and some of the good frames of the schema, one frame per id, nothing is awaited just when
they were all. -/
theorem outst_eq_zero_iff_all {s₀ t : State} {fs : List (List Byte)} {k : Nat} (hk : k ≤ fs.length)
    (h : Absorbed s₀.rstasm (fs.take k) t) (hgood : ∀ r ∈ fs, GoodFrame r) (hids : (fs.map rawId).Nodup)
    (hperm : (fs.map rawId).Perm
      (((List.finRange 4).filter fun i => i.val < s₀.rstasm.nfrag.toNat).map s₀.rstasm.fragId)) :
    t.outst = 0#4 ↔ k = fs.length := by
  constructor
  · intro hzero
    by_contra hne
    have hlt : k < fs.length := Nat.lt_of_le_of_ne hk hne
    have hmem : rawId fs[k] ∈ fs.map rawId := List.mem_map_of_mem (List.getElem_mem hlt)
    obtain ⟨i, hi, hid⟩ := List.mem_map.mp (hperm.mem_iff.mp hmem)
    have hi : i.val < s₀.rstasm.nfrag.toNat := of_decide_eq_true (List.mem_filter.mp hi).2
    have hnone : s₀.rstasm.hits (fs.take k) i = [] := by
      refine List.eq_nil_iff_forall_not_mem.mpr fun r hr => ?_
      obtain ⟨hr, -, -, hrid⟩ := State.mem_hits.mp hr
      obtain ⟨j, hj, rfl⟩ := List.getElem_of_mem hr
      rw [List.getElem_take] at hrid
      have hjk : j < k := Nat.lt_of_lt_of_le hj (List.length_take_le k fs)
      have hsame : (fs.map rawId)[j]'(by simp; omega) = (fs.map rawId)[k]'(by simpa using hlt) := by
        rw [List.getElem_map, List.getElem_map, ← hid, hrid]
      exact absurd (hids.getElem_inj_iff.mp hsame) (Nat.ne_of_lt hjk)
    have hbit := h.outst_eq i
    rw [hzero, BitVec.getLsbD_zero, rstasm_outst_getLsbD, decide_eq_true hnone, Bool.and_true] at hbit
    exact absurd hi (of_decide_eq_false hbit.symm)
  · rintro rfl
    rw [List.take_length] at h
    refine h.outst_eq_zero s₀.rstasm_partitioned hgood fun i hi => hperm.mem_iff.mpr (List.mem_map_of_mem ?_)
    exact List.mem_filter.mpr ⟨List.mem_finRange i, decide_eq_true hi⟩

/-- Settles O53: the first `k` frames are absorbed, and the last of them, a good one, tells what is awaited. -/
theorem resultTellsLastFragment : Obligations.ResultTellsLastFragment := by
  unfold Obligations.ResultTellsLastFragment
  intro s₀ s fs hw hrst hfs hids hperm k hk1 hk
  obtain rfl := Host.Outcome.next.inj ((exec_rstasm s₀).symm.trans hrst)
  have htake : ∀ r ∈ fs.take k, r ∈ fs := fun _ => List.mem_of_mem_take
  have hne : fs.take k ≠ [] := List.ne_nil_of_length_pos (by rw [List.length_take]; omega)
  obtain ⟨t, ht, habs, hresult⟩ := absorbFrames_absorbed (s := s₀.rstasm) hw fun r hr => (hfs r (htake r hr)).1
  have hzero := outst_eq_zero_iff_all hk habs (fun r hr => (hfs r hr).2) hids hperm
  refine ⟨t, ht, ?_, hzero⟩
  rw [hresult hne fun r hr => (hfs r (htake r hr)).2]
  exact if_congr hzero rfl rfl

/-! ### Straight from reset -/

/-- R241: the reset block expects no id, so a good raw frame changes no position. -/
theorem hits_reset (fs : List (List Byte)) (i : Fin 4) : State.reset.hits fs i = [] := by
  refine List.eq_nil_iff_forall_not_mem.mpr fun r hr => ?_
  obtain ⟨-, -, hi, -⟩ := State.mem_hits.mp hr
  exact absurd hi (Nat.not_lt_zero _)

/-- Settles O48: the commands on the reset block, whose lengths, schema and buffers are empty. -/
theorem freshBlockWorksAtOnce : Obligations.FreshBlockWorksAtOnce := by
  unfold Obligations.FreshBlockWorksAtOnce
  refine ⟨⟨_, exec_rstasm _, rfl⟩, ⟨_, execAssemble_eq _, rfl, rfl⟩, ?verify, fun a b => ?field,
    fun r hr hgood => ?absorb⟩
  case verify =>
    rcases execVerify_cases State.reset with ⟨hmatch, -⟩ | ⟨-, he⟩
    · exact absurd hmatch (by decide)
    · exact ⟨_, he, rfl, rfl⟩
  case field =>
    refine ⟨_, execField_of_outOfRange ?_, rfl, rfl⟩
    have hempty : State.reset.asmLen.toNat = 0 := rfl
    omega
  case absorb =>
    obtain ⟨t, ht, habs, hresult⟩ := exec_absorb_loadFrame (s := State.reset) Memory.wf_nil hr
    refine ⟨t, ht, (hresult hgood).trans (if_pos ?_)⟩
    refine BitVec.eq_of_getLsbD_eq fun j hj => ?_
    obtain ⟨-, ho, -⟩ := habs.none ⟨j, hj⟩ (hits_reset [r] _)
    exact ho

end Sys2Proof.Machine
